-- ==== Sys2Proof/Word.lean ====
section
/-! DEFINITION. The widths MLCE moves data in (spec/00_scope.md R9, R12; spec/30_encoding.md R71 to R73) and the short
byte groups its tables speak of: 4 bytes (a seed, a header, a key-schedule word, an accumulator), 16 bytes (a RotatingKey,
a cipher block) and 32 bytes (an application key). Each group lists its bytes in sequence order, first byte first. -/

namespace Sys2Proof

/-- A byte, 8 bits (R9). -/
abbrev Byte := BitVec 8

/-- A command word or any other 32-bit value. -/
abbrev Word32 := BitVec 32

/-- The width of `ARG0`, `ARG1`, `INFO0`, `INFO1`, `RES0` and `RES1` (R72, R73). -/
abbrev Field := BitVec 64

/-- Four bytes in sequence order. -/
structure Bytes4 where
  b0 : Byte
  b1 : Byte
  b2 : Byte
  b3 : Byte
deriving DecidableEq, Repr, Inhabited

/-- Sixteen bytes in sequence order, as four groups of four: byte `4*k + i` is byte `i` of group `k`. -/
structure Bytes16 where
  q0 : Bytes4
  q1 : Bytes4
  q2 : Bytes4
  q3 : Bytes4
deriving DecidableEq, Repr, Inhabited

/-- Thirty-two bytes in sequence order, as two groups of sixteen. -/
structure Bytes32 where
  lo : Bytes16
  hi : Bytes16
deriving DecidableEq, Repr, Inhabited

end Sys2Proof
end

