-- ==== Sys2Proof/Syntax.lean ====
section
/-! DEFINITION. The commands of MLCE: one constructor per row of spec/opcode_table.json, in the table's order. A constructor
carries what the command word carries beside its opcode (spec/30_encoding.md R71): the signed flag `S` or the context number
`CTX`. The operands `ARG0`, `ARG1` and `DIN` travel beside the word (R72). -/

namespace Sys2Proof

/-- A command, as its command word names it (R75). -/
inductive Instr where
  /-- `PB_NEW`, R100. -/
  | pbNew
  /-- `PB_RAW`, R102. -/
  | pbRaw
  /-- `PB_ENC1`, R103; the `S` flag. -/
  | pbEnc1 (sgn : Bool)
  /-- `PB_ENC2`, R104; the `S` flag. -/
  | pbEnc2 (sgn : Bool)
  /-- `PB_ENC4`, R105; the `S` flag. -/
  | pbEnc4 (sgn : Bool)
  /-- `PB_ENC8`, R106; the `S` flag. -/
  | pbEnc8 (sgn : Bool)
  /-- `PB_LPBUF`, R107. -/
  | pbLpbuf
  /-- `PB_LPSTR`, R108. -/
  | pbLpstr
  /-- `PB_DUMP`, R109. -/
  | pbDump
  /-- `PB_LEN`, R110. -/
  | pbLen
  /-- `PC_OPEN`, R121. -/
  | pcOpen
  /-- `PC_DEC1`, R125; the `S` flag. -/
  | pcDec1 (sgn : Bool)
  /-- `PC_DEC2`, R126; the `S` flag. -/
  | pcDec2 (sgn : Bool)
  /-- `PC_DEC4`, R127; the `S` flag. -/
  | pcDec4 (sgn : Bool)
  /-- `PC_DEC8`, R128; the `S` flag. -/
  | pcDec8 (sgn : Bool)
  /-- `PC_LPBUF`, R131. -/
  | pcLpbuf
  /-- `PC_LPSTR`, R133. -/
  | pcLpstr
  /-- `PC_REMAIN`, R134. -/
  | pcRemain
  /-- `CRC32`, R143. -/
  | crc32
  /-- `OBF_FWD`, R157. -/
  | obfFwd
  /-- `OBF_INV`, R158. -/
  | obfInv
  /-- `BCL_APPLY`, R177; the context number. -/
  | bclApply (c : Nat)
  /-- `HDR_GETLEN`, R207. -/
  | hdrGetlen
  /-- `HDR_BUILD`, R208; the context number. -/
  | hdrBuild (c : Nat)
  /-- `CS_INIT`, R216; the context number. -/
  | csInit (c : Nat)
  /-- `CS_ENCRYPT`, R218; the context number. -/
  | csEncrypt (c : Nat)
  /-- `CS_DECRYPT`, R220; the context number. -/
  | csDecrypt (c : Nat)
  /-- `CS_SHUFFLE`, R243; the context number. -/
  | csShuffle (c : Nat)
  /-- `CS_GETKEY`, R222; the context number. -/
  | csGetkey (c : Nat)
  /-- `CS_GETVER`, R223; the context number. -/
  | csGetver (c : Nat)
deriving DecidableEq, Repr

end Sys2Proof
end

