-- ==== Sys2Proof/WellFormed.lean ====
section
/-! DEFINITION. The commands a command word can name: the `CTX` field is 4 bits (spec/30_encoding.md R71, R83), so a context
number is below 16. Every other constructor has an encoding whatever its argument. -/

namespace Sys2Proof

/-- The context number fits the 4-bit `CTX` field (R71). -/
def contextFits (c : Nat) : Bool := decide (c < 16)

/-- Whether a command word names the command. -/
def Instr.wellFormed : Instr → Bool
  | .pbNew => true
  | .pbRaw => true
  | .pbEnc1 _ => true
  | .pbEnc2 _ => true
  | .pbEnc4 _ => true
  | .pbEnc8 _ => true
  | .pbLpbuf => true
  | .pbLpstr => true
  | .pbDump => true
  | .pbLen => true
  | .pcOpen => true
  | .pcDec1 _ => true
  | .pcDec2 _ => true
  | .pcDec4 _ => true
  | .pcDec8 _ => true
  | .pcLpbuf => true
  | .pcLpstr => true
  | .pcRemain => true
  | .crc32 => true
  | .obfFwd => true
  | .obfInv => true
  | .bclApply c => contextFits c
  | .hdrGetlen => true
  | .hdrBuild c => contextFits c
  | .csInit c => contextFits c
  | .csEncrypt c => contextFits c
  | .csDecrypt c => contextFits c
  | .csShuffle c => contextFits c
  | .csGetkey c => contextFits c
  | .csGetver c => contextFits c

/-- `Instr.wellFormed` as a proposition. -/
abbrev Instr.WellFormed (i : Instr) : Prop := i.wellFormed = true

end Sys2Proof
end

