-- ==== Sys2Proof/Decode.lean ====
section
/-! DEFINITION. Decoding a command word (spec/30_encoding.md R71, R75, R76, R79), total on all 2^32 words and rejecting by
name; after it the encoder, written from the same table, and the table's rows. MLCE fetches nothing (R22, R64), so a command
word is a 32-bit value and has no byte order. -/

namespace Sys2Proof

/-- Why a command word is illegal: the first failing step of R76. -/
inductive DecodeError where
  /-- Step (1): `CW[31:13]` is not 0. -/
  | reservedBits
  /-- Step (2): `OPC` is none of the 30 assigned values. -/
  | unassignedOpcode
  /-- Step (3): `CTX` is not 0 on a command without a context. -/
  | contextNotUsed
  /-- Step (4): `S` is not 0 on a command without a signed flag. -/
  | signedNotUsed
deriving DecidableEq, Repr

/-- Which of the fields `CTX` and `S` a row uses (R75), with the command it makes of them. -/
inductive Form where
  | plain (i : Instr)
  | signed (f : Bool → Instr)
  | context (f : Nat → Instr)

/-- The field `OPC` (R71). -/
def opcField (cw : Word32) : BitVec 8 := cw.extractLsb' 0 8
/-- The field `CTX` (R71). -/
def ctxField (cw : Word32) : BitVec 4 := cw.extractLsb' 8 4
/-- The field `S` (R71). -/
def sgnField (cw : Word32) : BitVec 1 := cw.extractLsb' 12 1
/-- The field `RSV` (R71). -/
def rsvField (cw : Word32) : BitVec 19 := cw.extractLsb' 13 19

/-- The opcode map (R75). -/
def formOfOpcode : Nat → Option Form
  | 0x10 => some (.plain .pbNew)
  | 0x11 => some (.plain .pbRaw)
  | 0x12 => some (.signed .pbEnc1)
  | 0x13 => some (.signed .pbEnc2)
  | 0x14 => some (.signed .pbEnc4)
  | 0x15 => some (.signed .pbEnc8)
  | 0x16 => some (.plain .pbLpbuf)
  | 0x17 => some (.plain .pbLpstr)
  | 0x18 => some (.plain .pbDump)
  | 0x19 => some (.plain .pbLen)
  | 0x20 => some (.plain .pcOpen)
  | 0x21 => some (.signed .pcDec1)
  | 0x22 => some (.signed .pcDec2)
  | 0x23 => some (.signed .pcDec4)
  | 0x24 => some (.signed .pcDec8)
  | 0x25 => some (.plain .pcLpbuf)
  | 0x26 => some (.plain .pcLpstr)
  | 0x27 => some (.plain .pcRemain)
  | 0x30 => some (.plain .crc32)
  | 0x40 => some (.plain .obfFwd)
  | 0x41 => some (.plain .obfInv)
  | 0x48 => some (.context .bclApply)
  | 0x50 => some (.plain .hdrGetlen)
  | 0x51 => some (.context .hdrBuild)
  | 0x60 => some (.context .csInit)
  | 0x61 => some (.context .csEncrypt)
  | 0x62 => some (.context .csDecrypt)
  | 0x63 => some (.context .csShuffle)
  | 0x64 => some (.context .csGetkey)
  | 0x65 => some (.context .csGetver)
  | _ => none

/-- Decoding, the five steps of R76 in order. -/
def decode (cw : Word32) : Except DecodeError Instr :=
  if rsvField cw ≠ 0 then .error .reservedBits
  else
    match formOfOpcode (opcField cw).toNat with
    | none => .error .unassignedOpcode
    | some (.plain i) =>
      if ctxField cw ≠ 0 then .error .contextNotUsed
      else if sgnField cw ≠ 0 then .error .signedNotUsed
      else .ok i
    | some (.signed f) =>
      if ctxField cw ≠ 0 then .error .contextNotUsed
      else .ok (f (sgnField cw == 1))
    | some (.context f) =>
      if sgnField cw ≠ 0 then .error .signedNotUsed
      else .ok (f (ctxField cw).toNat)

/-- The instruction an instruction of `nbits` bits `w` decodes to. A command word is one 32-bit value, so bits from `nbits` up
to bit 31 are 0. -/
def decodeTableWord (nbits w : Nat) : Option Instr :=
  match decode (BitVec.ofNat 32 (w % 2 ^ nbits)) with
  | .ok i => some i
  | .error _ => none

/-- `CW = OPC OR (CTX << 8) OR (S << 12)` (R71). -/
def commandWord (opc : BitVec 8) (c : Nat) (sgn : Bool) : Word32 :=
  opc.setWidth 32 ||| ((BitVec.ofNat 4 c).setWidth 32 <<< 8) ||| ((BitVec.ofBool sgn).setWidth 32 <<< 12)

/-- The command word of a command (R71, R75). -/
def encode : Instr → Word32
  | .pbNew => commandWord 0x10 0 false
  | .pbRaw => commandWord 0x11 0 false
  | .pbEnc1 sgn => commandWord 0x12 0 sgn
  | .pbEnc2 sgn => commandWord 0x13 0 sgn
  | .pbEnc4 sgn => commandWord 0x14 0 sgn
  | .pbEnc8 sgn => commandWord 0x15 0 sgn
  | .pbLpbuf => commandWord 0x16 0 false
  | .pbLpstr => commandWord 0x17 0 false
  | .pbDump => commandWord 0x18 0 false
  | .pbLen => commandWord 0x19 0 false
  | .pcOpen => commandWord 0x20 0 false
  | .pcDec1 sgn => commandWord 0x21 0 sgn
  | .pcDec2 sgn => commandWord 0x22 0 sgn
  | .pcDec4 sgn => commandWord 0x23 0 sgn
  | .pcDec8 sgn => commandWord 0x24 0 sgn
  | .pcLpbuf => commandWord 0x25 0 false
  | .pcLpstr => commandWord 0x26 0 false
  | .pcRemain => commandWord 0x27 0 false
  | .crc32 => commandWord 0x30 0 false
  | .obfFwd => commandWord 0x40 0 false
  | .obfInv => commandWord 0x41 0 false
  | .bclApply c => commandWord 0x48 c false
  | .hdrGetlen => commandWord 0x50 0 false
  | .hdrBuild c => commandWord 0x51 c false
  | .csInit c => commandWord 0x60 c false
  | .csEncrypt c => commandWord 0x61 c false
  | .csDecrypt c => commandWord 0x62 c false
  | .csShuffle c => commandWord 0x63 c false
  | .csGetkey c => commandWord 0x64 c false
  | .csGetver c => commandWord 0x65 c false

/-- A row of the command table: a word `w` selects it when `w AND mask = pattern` (R75). -/
structure Row where
  mnemonic : String
  pattern : Word32
  mask : Word32
deriving DecidableEq, Repr

/-- The command table of R75. -/
def opcodeTable : List Row := [
  ⟨"PB_NEW", 0x00000010, 0xFFFFFFFF⟩,
  ⟨"PB_RAW", 0x00000011, 0xFFFFFFFF⟩,
  ⟨"PB_ENC1", 0x00000012, 0xFFFFEFFF⟩,
  ⟨"PB_ENC2", 0x00000013, 0xFFFFEFFF⟩,
  ⟨"PB_ENC4", 0x00000014, 0xFFFFEFFF⟩,
  ⟨"PB_ENC8", 0x00000015, 0xFFFFEFFF⟩,
  ⟨"PB_LPBUF", 0x00000016, 0xFFFFFFFF⟩,
  ⟨"PB_LPSTR", 0x00000017, 0xFFFFFFFF⟩,
  ⟨"PB_DUMP", 0x00000018, 0xFFFFFFFF⟩,
  ⟨"PB_LEN", 0x00000019, 0xFFFFFFFF⟩,
  ⟨"PC_OPEN", 0x00000020, 0xFFFFFFFF⟩,
  ⟨"PC_DEC1", 0x00000021, 0xFFFFEFFF⟩,
  ⟨"PC_DEC2", 0x00000022, 0xFFFFEFFF⟩,
  ⟨"PC_DEC4", 0x00000023, 0xFFFFEFFF⟩,
  ⟨"PC_DEC8", 0x00000024, 0xFFFFEFFF⟩,
  ⟨"PC_LPBUF", 0x00000025, 0xFFFFFFFF⟩,
  ⟨"PC_LPSTR", 0x00000026, 0xFFFFFFFF⟩,
  ⟨"PC_REMAIN", 0x00000027, 0xFFFFFFFF⟩,
  ⟨"CRC32", 0x00000030, 0xFFFFFFFF⟩,
  ⟨"OBF_FWD", 0x00000040, 0xFFFFFFFF⟩,
  ⟨"OBF_INV", 0x00000041, 0xFFFFFFFF⟩,
  ⟨"BCL_APPLY", 0x00000048, 0xFFFFF0FF⟩,
  ⟨"HDR_GETLEN", 0x00000050, 0xFFFFFFFF⟩,
  ⟨"HDR_BUILD", 0x00000051, 0xFFFFF0FF⟩,
  ⟨"CS_INIT", 0x00000060, 0xFFFFF0FF⟩,
  ⟨"CS_ENCRYPT", 0x00000061, 0xFFFFF0FF⟩,
  ⟨"CS_DECRYPT", 0x00000062, 0xFFFFF0FF⟩,
  ⟨"CS_SHUFFLE", 0x00000063, 0xFFFFF0FF⟩,
  ⟨"CS_GETKEY", 0x00000064, 0xFFFFF0FF⟩,
  ⟨"CS_GETVER", 0x00000065, 0xFFFFF0FF⟩]

/-- A word selects a row (R75). -/
def Row.selects (r : Row) (w : Word32) : Bool := w &&& r.mask == r.pattern

end Sys2Proof
end

