-- ==== Sys2Proof/Config.lean ====
section
/-! DEFINITION. The parameters of spec/00_scope.md R8, as plain data, and the opaque constants that stand for what the spec
leaves open. A machine carries its parameters in its state and no step changes them, so a statement about every state holds for
every value of every parameter (notes/assumptions/3.md); the spec's default values are in Machine/Defaults.lean. -/

namespace Sys2Proof.Config

/-- `OBF_A_TAP`: which value the accumulator of forward sub-pass A holds (R153; the three readings of D17 in
spec/92_eei_decisions.md). -/
inductive Tap where
  /-- Reading (a): the value just before the XOR with the accumulator. -/
  | preAccXor
  /-- Reading (b), the spec's default: the value just after that XOR. -/
  | postAccXor
  /-- Reading (c): the value after the rotate, just before the XOR with `0xFF`. -/
  | postRot
deriving DecidableEq, Repr

/-- `BCL_KS`: which keystream function the block-cipher layer uses (R171, D19). -/
inductive Keystream where
  /-- The spec's default, AES-256 in output-feedback mode (spec/45_aes256_ofb.md). -/
  | aes256Ofb
  /-- Any other keystream function, of which R171 says only that it is a prefix-consistent function of key and IV. -/
  | uninterpreted
deriving DecidableEq, Repr

/-- Which four byte updates a Shuffle round makes (R239, D20). -/
inductive ShuffleRound where
  /-- The spec's default, the four update lines of R239. -/
  | fourUpdates
  /-- Any other round update, of which nothing is known. -/
  | uninterpreted
deriving DecidableEq, Repr

/-- Which end of the CRC register the data bits enter at and the register shifts toward (R141). -/
inductive BitOrder where
  /-- The spec's default: the least significant bit first, the register shifts right and the polynomial is reflected. -/
  | lsbFirst
  /-- The most significant bit first, the register shifts left and the polynomial is in normal form. -/
  | msbFirst
deriving DecidableEq, Repr

/-- A CRC-32 convention: the constants of R141 that the source does not print (G2). -/
structure CrcConvention where
  /-- The polynomial, in the form `order` shifts with. -/
  poly : Word32
  /-- The bit order of data and register. -/
  order : BitOrder
  /-- What the seed is XORed with before the first byte. -/
  seedMask : Word32
  /-- What the register is XORed with after the last byte. -/
  resultMask : Word32
deriving DecidableEq, Repr

/-- `CRC_POLY`: the whole convention of the checksum (R8, R141, D21). -/
inductive Crc where
  /-- A convention of the form of R141; the spec's default is one. -/
  | convention (c : CrcConvention)
  /-- Any other checksum R144 admits: the composition law makes it a function of the checksum so far and the next byte, of which
  nothing else is known. -/
  | uninterpreted
deriving DecidableEq, Repr

/-- The conventions that meet the composition law of R142: the final inversion of one call and the initial inversion of the next
cancel. -/
def Crc.legalB : Crc → Bool
  | .convention c => decide (c.seedMask = c.resultMask)
  | .uninterpreted => true

/-- The parameters of R8. `NCTX` is not repeated here: it is the length of the machine's register array of contexts. -/
structure Params where
  /-- `PKT_CAP`, the capacity of the packet memory in bytes; `none` is the spec's ∞. -/
  pktCap : Option Nat
  /-- `OBF_A_TAP`. -/
  obfATap : Tap
  /-- `CRC_POLY`, the polynomial and the bit conventions. -/
  crc : Crc
  /-- `BCL_KS`. -/
  keystream : Keystream
  /-- `APP_KEY`. -/
  appKey : Bytes32
  /-- `SHUF_TABLE`. -/
  shufTable : Vector Byte 256
  /-- `SHUF_INIT`. -/
  shufInit : Bytes4
  /-- The round function of Shuffle. -/
  shufRound : ShuffleRound
deriving DecidableEq, Repr

/-- The capacities R8 admits: ∞ or a natural number of at least 4. -/
def capacityLegalB : Option Nat → Bool
  | none => true
  | some n => decide (4 ≤ n)

/-- The values of the parameters that the spec admits: a capacity of R8 and a checksum that composes (R142). -/
def Params.legalB (p : Params) : Bool := capacityLegalB p.pktCap && p.crc.legalB

/-- `Params.legalB` as a proposition. -/
abbrev Params.Legal (p : Params) : Prop := p.legalB = true

/-- A keystream function nothing is known about: byte `k` of the keystream under a key and an IV (R171, OPEN by D19;
notes/assumptions/8.md). Taking the first `n` of these bytes is prefix-consistent by construction. -/
opaque openKeystream : Bytes32 → Bytes16 → Nat → Byte

/-- A Shuffle round update nothing is known about: the accumulator before the repack, from the table, the accumulator and
the key byte (R235, OPEN by D20; notes/assumptions/9.md). -/
opaque openShuffleRound : Vector Byte 256 → Bytes4 → Byte → Bytes4

/-- A checksum nothing is known about beside R144: the checksum after one more byte, from the checksum so far
(notes/assumptions/10.md). Going through a byte sequence with it composes by construction (R142). -/
opaque openCrcByte : Word32 → Byte → Word32

/-- What a 64-bit response field holds for a natural number that does not fit it, which no rule says
(notes/assumptions/7.md). -/
opaque wideField : Nat → Field

end Sys2Proof.Config
end

