-- ==== Sys2Proof/Machine/State.lean ====
section
/-! DEFINITION. The state of MLCE (spec/10_state.md R20), as plain data: the engine's own state, the parameters it was built
with, and the two ends of the transaction interface (spec/30_encoding.md R70), the commands the host has issued and the
responses it has been given (notes/assumptions/1.md). -/

namespace Sys2Proof.Machine

/-- A command as the host issues it: `(CW, ARG0, ARG1, DIN)` (R70, R72). -/
structure Command where
  cw : Word32
  arg0 : Field
  arg1 : Field
  din : List Byte
deriving DecidableEq, Repr

/-- A response: `(STATUS, INFO0, INFO1, RES0, RES1, DOUT, FSR)` (R70, R73). -/
structure Response where
  status : BitVec 8
  info0 : Field
  info1 : Field
  res0 : Field
  res1 : Field
  dout : List Byte
  fsr : BitVec 8
deriving DecidableEq, Repr

/-- One cipher context `CTX[c]` (R20, R27, R30 to R32). -/
structure Context where
  /-- The RotatingKey; it has a meaning only while `valid`. -/
  key : Bytes16
  /-- The VersionCode; it has a meaning only while `valid`. -/
  ver : BitVec 16
  /-- Whether `CS_INIT` has written the context. -/
  valid : Bool
deriving DecidableEq, Repr

/-- The contents of a byte memory: the bytes that differ from what an unlisted address reads as, addresses rising. -/
abbrev Memory := List Host.Cell

/-- The state of the machine. -/
structure State where
  /-- The packet memory `PKT` (R23). -/
  pkt : Memory
  /-- The Packet's length `WP` (R24). -/
  wp : Nat
  /-- The cursor's position `RP` (R25). -/
  rp : Nat
  /-- The cursor's limit `RL` (R25). -/
  rl : Nat
  /-- The cipher contexts `CTX[0] .. CTX[NCTX-1]` (R27). -/
  ctx : List Context
  /-- The sticky fault register `FSR` (R33). -/
  fsr : BitVec 8
  /-- The commands the host has issued and that are not yet executed, oldest first. The model's own field. -/
  inbox : List Command
  /-- The responses the host has been given, oldest first. The model's own field; no command reads it (R21). -/
  outbox : List Response
  /-- The parameters of R8. The model's own field; no command changes it (R34). -/
  cfg : Config.Params
deriving DecidableEq, Repr

/-- The causes of a fault response (R250, R254), in the order of their `FSR` bits. They are statuses, not stops: a command that
raises one has a next state. -/
inductive Cause where
  | illegalCommand
  | badContext
  | contextUninit
  | rangeError
  | shortBuffer
  | capacityExceeded
  /-- Reserved for the document's unreachable failure; nothing raises it (R262). -/
  | cipherConfig
deriving DecidableEq, Repr

/-- The faults that stop the machine. MLCE has none that can happen: R70 gives every command exactly one response. -/
inductive Fault where
  /-- The document's "Block-cipher construction/configuration failure", which "may be treated as a fatal invariant violation
  (abort/panic)" (R178, R262). Raised by nobody: the spec gives it no transition. Safe. -/
  | cipherConfig
deriving DecidableEq, Repr

/-- The refusals. -/
inductive Refusal where
  /-- An instruction without a meaning yet. Raised by an arm of `exec` that stands for such an instruction, and by nothing
  else; every instruction has its meaning, so nobody raises it. Safe. -/
  | notModelled (mnemonic : String)
deriving DecidableEq, Repr

/-- A context no `CS_INIT` has written since reset (R38). -/
def Context.reset : Context := ⟨unconstructedKey, unconstructedVer, false⟩

/-- The state after a reset of a machine with parameters `p` and `n` contexts (R38, R280), its host with nothing issued. -/
def State.resetWith (p : Config.Params) (n : Nat) : State where
  pkt := []
  wp := 0
  rp := 0
  rl := 0
  ctx := List.replicate n Context.reset
  fsr := 0
  inbox := []
  outbox := []
  cfg := p

/-- The machine right after reset (R38, R280), with the spec's default parameters (R8). -/
def State.reset : State := State.resetWith defaultParams defaultNctx

end Sys2Proof.Machine
end

