-- ==== Sys2Proof/Machine/Flags.lean ====
section
/-! DEFINITION. Status codes and the flag-like state (spec/30_encoding.md R74, spec/10_state.md R33, spec/60_exceptions.md
R250). MLCE has no arithmetic condition codes (R33); its flags are `FSR` and `CTX[c].VALID`. -/

namespace Sys2Proof.Machine

/-- The `FSR` bit of a cause (R33): its status is `0x80` plus this number. -/
def Cause.bit : Cause → Nat
  | .illegalCommand => 0
  | .badContext => 1
  | .contextUninit => 2
  | .rangeError => 3
  | .shortBuffer => 4
  | .capacityExceeded => 5
  | .cipherConfig => 6

/-- `STATUS` of a fault (R74, R254). -/
def Cause.status (k : Cause) : BitVec 8 := BitVec.ofNat 8 (0x80 + k.bit)

/-- `STATUS = OK` (R74). -/
def statusOk : BitVec 8 := 0x00

/-- `STATUS = END_OF_DATA` (R74). -/
def statusEndOfData : BitVec 8 := 0x01

/-- `FSR` with the sticky bit of a cause set, all other bits as they stand (R33, R254 step 3). -/
def setSticky (fsr : BitVec 8) (k : Cause) : BitVec 8 := fsr ||| (1#8 <<< k.bit)

end Sys2Proof.Machine
end

