-- ==== Sys2Proof/Machine/Operands.lean ====
section
/-! DEFINITION. Operand and number forms: little-endian packing (spec/00_scope.md R12, spec/20_memory.md R54), rotations
(R11), narrow and packed operands (spec/30_encoding.md R77), widening of decoded integers (spec/41_packet_cursor.md R124), and
natural numbers in 64-bit response fields (R73). -/

namespace Sys2Proof

/-- The four bytes as a byte sequence. -/
def Bytes4.toList (w : Bytes4) : List Byte := [w.b0, w.b1, w.b2, w.b3]

/-- The sixteen bytes as a byte sequence. -/
def Bytes16.toList (w : Bytes16) : List Byte :=
  w.q0.toList ++ w.q1.toList ++ w.q2.toList ++ w.q3.toList

end Sys2Proof

namespace Sys2Proof.Machine

/-- `le(n, v)`: the `n`-byte little-endian encoding of `v mod 2^(8n)` (R12). -/
def le : Nat → Nat → List Byte
  | 0, _ => []
  | n + 1, v => BitVec.ofNat 8 v :: le n (v / 256)

/-- `unle(b)`: the number a little-endian byte sequence stands for (R12). -/
def unle : List Byte → Nat
  | [] => 0
  | b :: bs => b.toNat + 256 * unle bs

/-- `rol8(v, n)` (R11). -/
def rol8 (v : Byte) (n : Nat) : Byte := (v <<< (n % 8)) ||| (v >>> (8 - n % 8))

/-- `ror8(v, n)` (R11). -/
def ror8 (v : Byte) (n : Nat) : Byte := rol8 v ((8 - n % 8) % 8)

/-- `rol32(v, n)`, for `0 < n < 32` (R11). -/
def rol32 (v : Word32) (n : Nat) : Word32 := (v <<< n) ||| (v >>> (32 - n))

/-- `byteswap16(v)` (R11). -/
def byteswap16 (v : BitVec 16) : BitVec 16 := (v >>> 8) ||| (v <<< 8)

/-- Four bytes packed with byte `i` in bits `8i+7..8i` (R77, R241). -/
def packBytes4 (w : Bytes4) : Word32 :=
  w.b0.setWidth 32 ||| (w.b1.setWidth 32 <<< 8) ||| (w.b2.setWidth 32 <<< 16) ||| (w.b3.setWidth 32 <<< 24)

/-- The four bytes of a 32-bit value, byte `i` from bits `8i+7..8i` (R77, R241). -/
def unpackBytes4 (v : Word32) : Bytes4 :=
  ⟨v.extractLsb' 0 8, v.extractLsb' 8 8, v.extractLsb' 16 8, v.extractLsb' 24 8⟩

/-- A narrow operand: `ARG[N-1:0]`, the higher bits ignored (R77). -/
def narrow (n : Nat) (arg : Field) : BitVec n := arg.extractLsb' 0 n

/-- A 32-bit result in a 64-bit field, bits 63..32 zero (R73). -/
def field32 (v : Word32) : Field := v.setWidth 64

/-- A 16-bit result in a 64-bit field, bits 63..16 zero (R73). -/
def field16 (v : BitVec 16) : Field := v.setWidth 64

/-- A natural number in a 64-bit field. The spec says what the field holds when the number fits; for a number that does not,
no rule does, and the field holds a free value (notes/assumptions/7.md). -/
def fieldOfNat (n : Nat) : Field :=
  if n < 2 ^ 64 then BitVec.ofNat 64 n else Config.wideField n

/-- The widening of a decoded `bits`-bit value `v` (R124): sign-extended when `S` is set, else zero-extended. For 64 bits the
two agree. -/
def widen (bits : Nat) (sgn : Bool) (v : Nat) : Field :=
  if sgn then (BitVec.ofNat bits v).signExtend 64 else (BitVec.ofNat bits v).setWidth 64

/-- `rep4(s)`: a 4-byte seed repeated four times (R9). -/
def rep4 (s : Bytes4) : Bytes16 := ⟨s, s, s, s⟩

end Sys2Proof.Machine
end

