-- ==== Sys2Proof/Machine/Ops.lean ====
section
/-! DEFINITION. The operations every command is written with: reading and writing `PKT` (spec/20_memory.md R52), the
transaction's operands and response (spec/30_encoding.md R70 to R73), raising a fault (spec/60_exceptions.md R254), ending with
`END_OF_DATA` (R252), the append primitive (spec/40_packet_buffer.md R101), the range operand (R78), the context operand (R83) and
the two cursor reads (spec/41_packet_cursor.md R122, R129). There is no return from a fault: the next command follows (R254). -/

namespace Sys2Proof.Machine

/-- How a command ends. -/
abbrev Result := Host.Outcome State Fault Refusal

/-- What an address of `PKT` that the list does not hold reads as (notes/assumptions/5.md). -/
def unlistedByte : Byte := 0

/-- The byte at an address. -/
def Memory.readByte : Memory → Nat → Byte
  | [], _ => unlistedByte
  | (b, w) :: m, a => if a = b then w else if a < b then unlistedByte else Memory.readByte m a

/-- The memory with one byte written, in canonical form. -/
def Memory.writeByte : Memory → Nat → Byte → Memory
  | [], a, v => if v = unlistedByte then [] else [(a, v)]
  | (b, w) :: m, a, v =>
    if a < b then (if v = unlistedByte then (b, w) :: m else (a, v) :: (b, w) :: m)
    else if a = b then (if v = unlistedByte then m else (a, v) :: m)
    else (b, w) :: Memory.writeByte m a v

/-- `MemRead(addr, n)` (R52). -/
def Memory.readBytes (m : Memory) (a : Nat) : Nat → List Byte
  | 0 => []
  | n + 1 => m.readByte a :: Memory.readBytes m (a + 1) n

/-- `MemWrite(addr, |v|, v)` (R52). -/
def Memory.writeBytes (m : Memory) (a : Nat) : List Byte → Memory
  | [] => m
  | v :: vs => Memory.writeBytes (m.writeByte a v) (a + 1) vs

/-- The entries of a memory rise from address `lo` on and none is what an unlisted address reads as. -/
def Memory.wfFrom (lo : Nat) : Memory → Bool
  | [] => true
  | (a, v) :: m => decide (lo ≤ a) && decide (v ≠ unlistedByte) && Memory.wfFrom (a + 1) m

/-- The memory is in its one canonical form. -/
def Memory.wf (m : Memory) : Bool := Memory.wfFrom 0 m

/-- No entry stands at address `n` or above. -/
def Memory.below (n : Nat) (m : Memory) : Bool := m.all fun e => decide (e.1 < n)

/-- `NCTX`, the number of contexts the block holds (R27). -/
def State.nctx (s : State) : Nat := s.ctx.length

/-- The command being executed: the oldest one issued and not yet executed. Where the host has issued none it is the command
word 0 with every operand 0 or empty; no step executes that one (notes/assumptions/14.md). -/
def State.command (s : State) : Command :=
  match s.inbox with
  | [] => ⟨0, 0, 0, []⟩
  | c :: _ => c

/-- The operand `ARG0` (R72). -/
def State.arg0 (s : State) : Field := s.command.arg0
/-- The operand `ARG1` (R72). -/
def State.arg1 (s : State) : Field := s.command.arg1
/-- The operand `DIN` (R72). -/
def State.din (s : State) : List Byte := s.command.din
/-- `base` of a range operand, or the start index of `PC_OPEN` (R78, R121). -/
def State.base (s : State) : Nat := s.arg0.toNat
/-- `len` of a range operand (R78). -/
def State.len (s : State) : Nat := s.arg1.toNat

/-- The packet memory with the bytes `b` stored from address `a` on. -/
def State.store (s : State) (a : Nat) (b : List Byte) : State := { s with pkt := s.pkt.writeBytes a b }

/-- The bytes `b` added at the Packet's end: the two state changes of `Append` (R101). -/
def State.grow (s : State) (b : List Byte) : State :=
  { s with pkt := s.pkt.writeBytes s.wp b, wp := s.wp + b.length }

/-- An empty Packet with the cursor closed (R100). -/
def State.emptied (s : State) : State := { s with wp := 0, rp := 0, rl := 0 }

/-- The cursor's position set. -/
def State.setRp (s : State) (n : Nat) : State := { s with rp := n }

/-- The cursor opened from `start` on the Packet as it stands (R121). -/
def State.openCursor (s : State) (start : Nat) : State := { s with rp := start, rl := s.wp }

/-- Context `c` replaced. -/
def State.setContext (s : State) (c : Nat) (x : Context) : State := { s with ctx := s.ctx.set c x }

/-- The sticky bit of a cause set. -/
def State.stick (s : State) (k : Cause) : State := { s with fsr := setSticky s.fsr k }

/-- The response given: the executed command leaves the list of issued ones and the host holds one response more, which
reports `FSR` as it now stands (R70, R73). -/
def State.respond (s : State) (status : BitVec 8) (info0 info1 res0 res1 : Field) (dout : List Byte) : State :=
  { s with inbox := s.inbox.tail, outbox := s.outbox ++ [⟨status, info0, info1, res0, res1, dout, s.fsr⟩] }

/-- `return OK(RES0, RES1, DOUT)` (R13, R73). -/
def State.okWith (s : State) (res0 res1 : Field) (dout : List Byte) : State :=
  s.respond statusOk 0 0 res0 res1 dout

/-- `return OK()` (R13). -/
def State.ok (s : State) : State := s.okWith 0 0 []

/-- `return EndOfData(req, avail)` (R13, R252). -/
def State.endOfData (s : State) (req avail : Nat) : State :=
  s.respond statusEndOfData (fieldOfNat req) (fieldOfNat avail) 0 0 []

/-- `raise F(i0, i1)`: taking a fault (R254). The cause's sticky bit is set, the response carries its status and its two
values, and nothing else changes. -/
def State.raise (s : State) (k : Cause) (i0 i1 : Field) : State :=
  (s.stick k).respond k.status i0 i1 0 0 []

/-- Whether a Packet of `n` bytes passes the capacity; with `PKT_CAP = ∞` none does (R101). -/
def State.overCapacity (s : State) (n : Nat) : Bool :=
  match s.cfg.pktCap with
  | none => false
  | some cap => decide (cap < n)

/-- `PKT_CAP` as a response field; R261 reports it only where it is finite. -/
def State.capField (s : State) : Field :=
  match s.cfg.pktCap with
  | none => 0
  | some cap => fieldOfNat cap

/-- `Append(b) ; return OK()` (R101, R261). -/
def State.append (s : State) (b : List Byte) : State :=
  if s.overCapacity (s.wp + b.length) then
    s.raise .capacityExceeded (fieldOfNat (s.wp + b.length)) s.capField
  else (s.grow b).ok

/-- The range operand `base = ARG0`, `len = ARG1` does not lie in the Packet; the sum does not wrap (R78, R259). -/
def State.rangeBad (s : State) : Bool := decide (s.wp < s.base + s.len)

/-- A command on a range operand: `RANGE_ERROR` where the range does not lie in the Packet (R78, R259). -/
def State.withRange (s : State) (k : State) : State :=
  if s.rangeBad then s.raise .rangeError s.arg0 s.arg1 else k

/-- The bytes of the range operand. -/
def State.rangeBytes (s : State) : List Byte := s.pkt.readBytes s.base s.len

/-- A command that transforms its range in place (R157, R158, R177, R220). -/
def State.transformRange (s : State) (f : List Byte → List Byte) : State :=
  s.withRange (s.store s.base (f s.rangeBytes)).ok

/-- A command on context `c` that does not need the context to be valid (R83, R257). -/
def State.withContext (s : State) (c : Nat) (k : Context → State) : State :=
  match s.ctx[c]? with
  | none => s.raise .badContext (fieldOfNat c) (fieldOfNat s.nctx)
  | some x => k x

/-- A command on context `c`, which must be valid (R83, R257, R258). -/
def State.withValidContext (s : State) (c : Nat) (k : Context → State) : State :=
  s.withContext c fun x =>
    if x.valid then k x else s.raise .contextUninit (fieldOfNat c) 0

/-- `avail`, the bytes ahead of the cursor (R120). -/
def State.avail (s : State) : Nat := s.rl - s.rp

/-- `ReadFixed(n)` (R122); `k` is given the value read and the state with the cursor advanced. -/
def State.readFixed (s : State) (n : Nat) (k : Nat → State → State) : State :=
  if s.avail < n then s.endOfData n s.avail
  else k (unle (s.pkt.readBytes s.rp n)) (s.setRp (s.rp + n))

/-- `ReadLP()` (R129, R130); `k` is given the descriptor (offset, length) and the state with the cursor advanced. Where the
declared length exceeds what remains, the cursor stays just after the length field. -/
def State.readPrefixed (s : State) (k : Nat → Nat → State → State) : State :=
  s.readFixed 2 fun len s1 =>
    if s1.avail < len then s1.endOfData len s1.avail
    else k s1.rp len (s1.setRp (s1.rp + len))

end Sys2Proof.Machine
end

