-- ==== Sys2Proof/Machine/Checksum.lean ====
section
/-! DEFINITION. The CRC-32 generator (spec/42_checksum.md), over any convention: polynomial, bit order and the two inversions are
parameters, and so is the checksum as a whole (R144; notes/assumptions/10.md). -/

namespace Sys2Proof.Machine

/-- One inner step of R141: a logical shift by one, with the polynomial XORed in where the bit shifted out is 1. -/
def crcBit (cv : Config.CrcConvention) (c : Word32) : Word32 :=
  match cv.order with
  | .lsbFirst => if c.getLsbD 0 then (c >>> 1) ^^^ cv.poly else c >>> 1
  | .msbFirst => if c.getLsbD 31 then (c <<< 1) ^^^ cv.poly else c <<< 1

/-- The inner step `n` times. -/
def crcBits (cv : Config.CrcConvention) : Nat → Word32 → Word32
  | 0, c => c
  | n + 1, c => crcBits cv n (crcBit cv c)

/-- A data byte at the end of the register where its bits enter (R141). -/
def crcLoad (cv : Config.CrcConvention) (d : Byte) : Word32 :=
  match cv.order with
  | .lsbFirst => d.setWidth 32
  | .msbFirst => d.setWidth 32 <<< 24

/-- The register after one data byte (R141). -/
def crcByte (cv : Config.CrcConvention) (c : Word32) (d : Byte) : Word32 := crcBits cv 8 (c ^^^ crcLoad cv d)

/-- `Crc32(seed, data)` under a convention (R141). -/
def crcOver (cv : Config.CrcConvention) (seed : Word32) (data : List Byte) : Word32 :=
  data.foldl (crcByte cv) (seed ^^^ cv.seedMask) ^^^ cv.resultMask

/-- Entry `i` of the 256-entry table of the table-driven form: the inner steps applied to `i` (R141). -/
def crcTable (cv : Config.CrcConvention) (i : Byte) : Word32 := crcBits cv 8 (crcLoad cv i)

/-- The register after one data byte, by the table. -/
def crcByteByTable (cv : Config.CrcConvention) (c : Word32) (d : Byte) : Word32 :=
  match cv.order with
  | .lsbFirst => (c >>> 8) ^^^ crcTable cv (c.setWidth 8 ^^^ d)
  | .msbFirst => (c <<< 8) ^^^ crcTable cv ((c >>> 24).setWidth 8 ^^^ d)

/-- `Crc32(seed, data)` under a convention, in the table-driven form R141 allows. -/
def crcOverByTable (cv : Config.CrcConvention) (seed : Word32) (data : List Byte) : Word32 :=
  data.foldl (crcByteByTable cv) (seed ^^^ cv.seedMask) ^^^ cv.resultMask

/-- `Crc32(seed, data)` of a machine with the parameters `p`: under its convention, or one nothing is known about (R8, R144). -/
def crc32 (p : Config.Params) (seed : Word32) (data : List Byte) : Word32 :=
  match p.crc with
  | .convention cv => crcOver cv seed data
  | .uninterpreted => data.foldl Config.openCrcByte seed

/-- `CRC32` (R143). -/
def execCrc32 (s : State) : Result :=
  .next (s.okWith (field32 (crc32 s.cfg (narrow 32 s.arg0) s.din)) 0 [])

end Sys2Proof.Machine
end

