-- ==== Sys2Proof/Machine/BlockCipher.lean ====
section
/-! DEFINITION. The default block cipher and keystream, AES-256 in output-feedback mode (spec/45_aes256_ofb.md), all of it the
spec's passage from general knowledge (93_implementation_defined.md G3; notes/assumptions/8.md). A block's state is its four columns:
byte `4c + r` of the block is byte `r` of column `c` (R188). -/

namespace Sys2Proof.Machine

/-- `xtime` (R187). -/
def xtime (a : Byte) : Byte := if a.getLsbD 7 then (a <<< 1) ^^^ 0x1B else a <<< 1

/-- Multiplication in the field of R187, by the bits of the second factor, of which the lowest `n` are used. -/
def gmulBits : Nat → Byte → Byte → Byte
  | 0, _, _ => 0
  | n + 1, a, b => (if b.getLsbD 0 then a else 0) ^^^ gmulBits n (xtime a) (b >>> 1)

/-- Multiplication in the field of R187. -/
def gmul (a b : Byte) : Byte := gmulBits 8 a b

/-- The rows of `SBOX` (R187), row = high nibble of the index. -/
def sboxBytes : List Byte :=
  [0x63, 0x7C, 0x77, 0x7B, 0xF2, 0x6B, 0x6F, 0xC5, 0x30, 0x01, 0x67, 0x2B, 0xFE, 0xD7, 0xAB, 0x76] ++
  [0xCA, 0x82, 0xC9, 0x7D, 0xFA, 0x59, 0x47, 0xF0, 0xAD, 0xD4, 0xA2, 0xAF, 0x9C, 0xA4, 0x72, 0xC0] ++
  [0xB7, 0xFD, 0x93, 0x26, 0x36, 0x3F, 0xF7, 0xCC, 0x34, 0xA5, 0xE5, 0xF1, 0x71, 0xD8, 0x31, 0x15] ++
  [0x04, 0xC7, 0x23, 0xC3, 0x18, 0x96, 0x05, 0x9A, 0x07, 0x12, 0x80, 0xE2, 0xEB, 0x27, 0xB2, 0x75] ++
  [0x09, 0x83, 0x2C, 0x1A, 0x1B, 0x6E, 0x5A, 0xA0, 0x52, 0x3B, 0xD6, 0xB3, 0x29, 0xE3, 0x2F, 0x84] ++
  [0x53, 0xD1, 0x00, 0xED, 0x20, 0xFC, 0xB1, 0x5B, 0x6A, 0xCB, 0xBE, 0x39, 0x4A, 0x4C, 0x58, 0xCF] ++
  [0xD0, 0xEF, 0xAA, 0xFB, 0x43, 0x4D, 0x33, 0x85, 0x45, 0xF9, 0x02, 0x7F, 0x50, 0x3C, 0x9F, 0xA8] ++
  [0x51, 0xA3, 0x40, 0x8F, 0x92, 0x9D, 0x38, 0xF5, 0xBC, 0xB6, 0xDA, 0x21, 0x10, 0xFF, 0xF3, 0xD2] ++
  [0xCD, 0x0C, 0x13, 0xEC, 0x5F, 0x97, 0x44, 0x17, 0xC4, 0xA7, 0x7E, 0x3D, 0x64, 0x5D, 0x19, 0x73] ++
  [0x60, 0x81, 0x4F, 0xDC, 0x22, 0x2A, 0x90, 0x88, 0x46, 0xEE, 0xB8, 0x14, 0xDE, 0x5E, 0x0B, 0xDB] ++
  [0xE0, 0x32, 0x3A, 0x0A, 0x49, 0x06, 0x24, 0x5C, 0xC2, 0xD3, 0xAC, 0x62, 0x91, 0x95, 0xE4, 0x79] ++
  [0xE7, 0xC8, 0x37, 0x6D, 0x8D, 0xD5, 0x4E, 0xA9, 0x6C, 0x56, 0xF4, 0xEA, 0x65, 0x7A, 0xAE, 0x08] ++
  [0xBA, 0x78, 0x25, 0x2E, 0x1C, 0xA6, 0xB4, 0xC6, 0xE8, 0xDD, 0x74, 0x1F, 0x4B, 0xBD, 0x8B, 0x8A] ++
  [0x70, 0x3E, 0xB5, 0x66, 0x48, 0x03, 0xF6, 0x0E, 0x61, 0x35, 0x57, 0xB9, 0x86, 0xC1, 0x1D, 0x9E] ++
  [0xE1, 0xF8, 0x98, 0x11, 0x69, 0xD9, 0x8E, 0x94, 0x9B, 0x1E, 0x87, 0xE9, 0xCE, 0x55, 0x28, 0xDF] ++
  [0x8C, 0xA1, 0x89, 0x0D, 0xBF, 0xE6, 0x42, 0x68, 0x41, 0x99, 0x2D, 0x0F, 0xB0, 0x54, 0xBB, 0x16]

/-- `SBOX[a]` (R187). -/
def sbox (a : Byte) : Byte := sboxBytes.getD a.toNat 0

/-- The affine step of R187, from the inverse of `a` to `SBOX[a]`. -/
def sboxAffine (i : Byte) : Byte := i ^^^ rol8 i 1 ^^^ rol8 i 2 ^^^ rol8 i 3 ^^^ rol8 i 4 ^^^ 0x63

/-- Byte-wise XOR of two words. -/
def xor4 (a b : Bytes4) : Bytes4 := ⟨a.b0 ^^^ b.b0, a.b1 ^^^ b.b1, a.b2 ^^^ b.b2, a.b3 ^^^ b.b3⟩

/-- `SBOX` on each byte of a word. -/
def subWord (w : Bytes4) : Bytes4 := ⟨sbox w.b0, sbox w.b1, sbox w.b2, sbox w.b3⟩

/-- The word rotated left by one byte (R189). -/
def rotWord (w : Bytes4) : Bytes4 := ⟨w.b1, w.b2, w.b3, w.b0⟩

/-- The word `t` that is XORed into `w[i-8]`, from `w[i-1]` and the round constant (R189). -/
def scheduleTerm (i : Nat) (rc : Byte) (last : Bytes4) : Bytes4 :=
  if i % 8 = 0 then xor4 (subWord (rotWord last)) ⟨rc, 0, 0, 0⟩
  else if i % 8 = 4 then subWord last
  else last

/-- The round constant after word `i` (R189). -/
def nextRc (i : Nat) (rc : Byte) : Byte := if i % 8 = 0 then xtime rc else rc

/-- The key schedule from word `i` on, `n` words more, from the eight words before it, oldest first (R189). -/
def scheduleFrom : Nat → Nat → Byte → List Bytes4 → List Bytes4
  | 0, _, _, _ => []
  | n + 1, i, rc, window =>
    let w := xor4 (window.headD default) (scheduleTerm i rc (window.getLastD default))
    w :: scheduleFrom n (i + 1) (nextRc i rc) (window.tail ++ [w])

/-- The eight words of a key (R189). -/
def keyWords (k : Bytes32) : List Bytes4 :=
  [k.lo.q0, k.lo.q1, k.lo.q2, k.lo.q3, k.hi.q0, k.hi.q1, k.hi.q2, k.hi.q3]

/-- Words grouped by four, one group a round key (R188). -/
def groupByFour : List Bytes4 → List Bytes16
  | a :: b :: c :: d :: rest => ⟨a, b, c, d⟩ :: groupByFour rest
  | _ => []

/-- The fifteen round keys of a key (R188, R189). -/
def roundKeys (k : Bytes32) : List Bytes16 := groupByFour (keyWords k ++ scheduleFrom 52 8 0x01 (keyWords k))

/-- `AddRoundKey` (R188). -/
def addRoundKey (s k : Bytes16) : Bytes16 := ⟨xor4 s.q0 k.q0, xor4 s.q1 k.q1, xor4 s.q2 k.q2, xor4 s.q3 k.q3⟩

/-- `SubBytes` (R191). -/
def subBytes (s : Bytes16) : Bytes16 := ⟨subWord s.q0, subWord s.q1, subWord s.q2, subWord s.q3⟩

/-- `ShiftRows` (R191): row `r` of column `c` comes from column `c + r`. -/
def shiftRows (s : Bytes16) : Bytes16 :=
  ⟨⟨s.q0.b0, s.q1.b1, s.q2.b2, s.q3.b3⟩, ⟨s.q1.b0, s.q2.b1, s.q3.b2, s.q0.b3⟩,
   ⟨s.q2.b0, s.q3.b1, s.q0.b2, s.q1.b3⟩, ⟨s.q3.b0, s.q0.b1, s.q1.b2, s.q2.b3⟩⟩

/-- `MixColumns` on one column (R191). -/
def mixColumn (a : Bytes4) : Bytes4 :=
  ⟨gmul a.b0 2 ^^^ gmul a.b1 3 ^^^ a.b2 ^^^ a.b3,
   a.b0 ^^^ gmul a.b1 2 ^^^ gmul a.b2 3 ^^^ a.b3,
   a.b0 ^^^ a.b1 ^^^ gmul a.b2 2 ^^^ gmul a.b3 3,
   gmul a.b0 3 ^^^ a.b1 ^^^ a.b2 ^^^ gmul a.b3 2⟩

/-- `MixColumns` (R191). -/
def mixColumns (s : Bytes16) : Bytes16 := ⟨mixColumn s.q0, mixColumn s.q1, mixColumn s.q2, mixColumn s.q3⟩

/-- The rounds after the first `AddRoundKey`: every round but the last mixes the columns (R191). -/
def aesRounds : List Bytes16 → Bytes16 → Bytes16
  | [], s => s
  | [k], s => addRoundKey (shiftRows (subBytes s)) k
  | k :: ks, s => aesRounds ks (addRoundKey (mixColumns (shiftRows (subBytes s))) k)

/-- Encryption under round keys (R191). -/
def aesEncryptWith (keys : List Bytes16) (block : Bytes16) : Bytes16 :=
  match keys with
  | [] => block
  | k :: ks => aesRounds ks (addRoundKey block k)

/-- `AesEnc(key, block)` (R191). -/
def aesEnc (key : Bytes32) (block : Bytes16) : Bytes16 := aesEncryptWith (roundKeys key) block

/-- `n` blocks of output feedback after the block `o` (R190). -/
def ofbBlocks (keys : List Bytes16) : Nat → Bytes16 → List Byte
  | 0, _ => []
  | n + 1, o =>
    let o1 := aesEncryptWith keys o
    o1.toList ++ ofbBlocks keys n o1

/-- AES-256-OFB: the first `n` keystream bytes (R190). -/
def ofbKeystream (key : Bytes32) (iv : Bytes16) (n : Nat) : List Byte :=
  (ofbBlocks (roundKeys key) ((n + 15) / 16) iv).take n

/-- `BCL_KS(APP_KEY, IV, n)` (R171): the default keystream or one nothing is known about. -/
def keystream (p : Config.Params) (iv : Bytes16) (n : Nat) : List Byte :=
  match p.keystream with
  | .aes256Ofb => ofbKeystream p.appKey iv n
  | .uninterpreted => (List.range n).map (Config.openKeystream p.appKey iv)

end Sys2Proof.Machine
end

