-- ==== Sys2Proof/Machine/CipherLayer.lean ====
section
/-! DEFINITION. The block-cipher stream layer (spec/44_block_cipher_layer.md). -/

namespace Sys2Proof.Machine

/-- The first chunk's length, 1460 - 4 (R172). -/
def firstChunk : Nat := 1456

/-- Every later chunk's length (R172). -/
def laterChunk : Nat := 1460

/-- The XOR of a byte sequence with the keystream from its beginning; it ends with the shorter of the two. -/
def xorBytes (b ks : List Byte) : List Byte := List.zipWith (· ^^^ ·) b ks

/-- The loop of R174: the keystream restarts at each chunk; `fuel` bounds the number of chunks. -/
def bclChunks (ks : List Byte) : Nat → Nat → List Byte → List Byte
  | 0, _, b => b
  | _, _, [] => []
  | fuel + 1, chunk, b => xorBytes (b.take chunk) ks ++ bclChunks ks fuel laterChunk (b.drop chunk)

/-- `Bcl(IV, b)` (R174), with the keystream of the machine's parameters. A target of `n` bytes has at most `n` chunks. -/
def bcl (p : Config.Params) (iv : Bytes16) (b : List Byte) : List Byte :=
  bclChunks (keystream p iv (min b.length laterChunk)) b.length firstChunk b

/-- `BCL_APPLY` (R177). -/
def execBclApply (c : Nat) (s : State) : Result :=
  .next (s.withValidContext c fun x => s.transformRange (bcl s.cfg x.key))

end Sys2Proof.Machine
end

