-- ==== Sys2Proof/Machine/Header.lean ====
section
/-! DEFINITION. The header codec (spec/46_header_codec.md), every intermediate at the width its listing gives (R204). -/

namespace Sys2Proof.Machine

/-- `EncodeVersion` (R200). -/
def encodeVersion (version : BitVec 16) : BitVec 16 := byteswap16 (0xFFFF - version)

/-- `DecodeVersion` (R201). -/
def decodeVersion (x : BitVec 16) : BitVec 16 := 0xFFFF - byteswap16 x

/-- The 16-bit `iv` of R203, before and after the version mask. -/
def headerIv (key : Bytes16) (ver : BitVec 16) : BitVec 16 :=
  (key.q0.b3.setWidth 16 ||| (key.q0.b2.setWidth 16 <<< 8)) ^^^ ver

/-- `HdrBuild(key, ver, L)` (R203), the length modulo 2^16 (R209). -/
def hdrBuild (key : Bytes16) (ver : BitVec 16) (len : Nat) : Bytes4 :=
  let iv := headerIv key ver
  let xoredIv := iv ^^^ byteswap16 (BitVec.ofNat 16 len)
  ⟨(iv >>> 8).setWidth 8, (iv &&& 0xFF).setWidth 8, (xoredIv >>> 8).setWidth 8, (xoredIv &&& 0xFF).setWidth 8⟩

/-- `HdrGetLen(h0, h1, h2, h3)` (R205). -/
def hdrGetLen (h : Bytes4) : BitVec 16 :=
  (h.b0.setWidth 16 + h.b1.setWidth 16 * 256) ^^^ (h.b2.setWidth 16 + h.b3.setWidth 16 * 256)

/-- `HDR_GETLEN` (R207). -/
def execHdrGetlen (s : State) : Result :=
  .next (s.okWith (field16 (hdrGetLen (unpackBytes4 (narrow 32 s.arg0)))) 0 [])

/-- `HDR_BUILD` (R208). -/
def execHdrBuild (c : Nat) (s : State) : Result :=
  .next (s.withValidContext c fun x =>
    s.okWith (field32 (packBytes4 (hdrBuild x.key x.ver (narrow 16 s.arg0).toNat))) 0 [])

end Sys2Proof.Machine
end

