-- ==== Sys2Proof/Machine/Obfuscation.lean ====
section
/-! DEFINITION. The obfuscation transform (spec/43_obfuscation.md) under each of the three readings of sub-pass A's accumulator
(spec/92_eei_decisions.md D17). A sub-pass is a scan that carries the accumulator; the back-to-front scan is the front-to-back scan of
the reversed buffer. -/

namespace Sys2Proof.Machine

/-- `add8(a, j mod 256)` (R10): `j` is not reduced beforehand. -/
def addDistance (c : Byte) (j : Nat) : Byte := c + BitVec.ofNat 8 j

/-- `sub8(a, j mod 256)` (R10). -/
def subDistance (c : Byte) (j : Nat) : Byte := c - BitVec.ofNat 8 j

/-- The accumulator's next value, from the values before the XOR with it, after that XOR, and after the rotate (D17). -/
def tapValue (tap : Config.Tap) (c1 c2 c3 : Byte) : Byte :=
  match tap with
  | .preAccXor => c1
  | .postAccXor => c2
  | .postRot => c3

/-- Forward sub-pass A along its scan (R153): `j` counts up. -/
def scanA (tap : Config.Tap) : Nat → Byte → List Byte → List Byte
  | _, _, [] => []
  | j, acc, b :: bs =>
    let c1 := addDistance (rol8 b 3) j
    let c2 := c1 ^^^ acc
    let c3 := ror8 c2 (j % 8)
    ((c3 ^^^ 0xFF) + 0x48) :: scanA tap (j + 1) (tapValue tap c1 c2 c3) bs

/-- Forward sub-pass A: back to front, the last byte at distance 1 (R153). -/
def subPassA (tap : Config.Tap) (b : List Byte) : List Byte := (scanA tap 1 0 b.reverse).reverse

/-- Forward sub-pass B along its scan (R154): the distance from the end of a byte is the number of bytes from it on. -/
def scanB : Byte → List Byte → List Byte
  | _, [] => []
  | acc, b :: bs =>
    let c := addDistance (rol8 b 4) (bs.length + 1) ^^^ acc
    ror8 (c ^^^ 0x13) 3 :: scanB c bs

/-- Forward sub-pass B: front to back (R154). -/
def subPassB (b : List Byte) : List Byte := scanB 0 b

/-- One outer round of the forward transform (R150). -/
def obfRound (tap : Config.Tap) (b : List Byte) : List Byte := subPassB (subPassA tap b)

/-- `ObfFwd` (R150). -/
def obfFwd (tap : Config.Tap) (b : List Byte) : List Byte := obfRound tap (obfRound tap (obfRound tap b))

/-- Inverse sub-pass B along its scan (R156). -/
def scanInvB : Byte → List Byte → List Byte
  | _, [] => []
  | acc, b :: bs =>
    let t := rol8 b 3 ^^^ 0x13
    ror8 (subDistance (t ^^^ acc) (bs.length + 1)) 4 :: scanInvB t bs

/-- Inverse sub-pass B (R156). -/
def invSubPassB (b : List Byte) : List Byte := scanInvB 0 b

/-- Inverse sub-pass A along its scan (R156, D17). -/
def scanInvA (tap : Config.Tap) : Nat → Byte → List Byte → List Byte
  | _, _, [] => []
  | j, acc, b :: bs =>
    let c3 := (b - 0x48) ^^^ 0xFF
    let c2 := rol8 c3 (j % 8)
    let c1 := c2 ^^^ acc
    ror8 (subDistance c1 j) 3 :: scanInvA tap (j + 1) (tapValue tap c1 c2 c3) bs

/-- Inverse sub-pass A: in its forward sub-pass's direction (R156). -/
def invSubPassA (tap : Config.Tap) (b : List Byte) : List Byte := (scanInvA tap 1 0 b.reverse).reverse

/-- One outer round of the inverse transform (R156). -/
def obfInvRound (tap : Config.Tap) (b : List Byte) : List Byte := invSubPassA tap (invSubPassB b)

/-- `ObfInv` (R156). -/
def obfInv (tap : Config.Tap) (b : List Byte) : List Byte := obfInvRound tap (obfInvRound tap (obfInvRound tap b))

/-- `OBF_FWD` (R157). -/
def execObfFwd (s : State) : Result := .next (s.transformRange (obfFwd s.cfg.obfATap))

/-- `OBF_INV` (R158). -/
def execObfInv (s : State) : Result := .next (s.transformRange (obfInv s.cfg.obfATap))

end Sys2Proof.Machine
end

