-- ==== Sys2Proof/Machine/CipherState.lean ====
section
/-! DEFINITION. The cipher-state commands (spec/47_cipher_state.md). -/

namespace Sys2Proof.Machine

/-- The context `CS_INIT` constructs from its operands (R216). -/
def State.constructed (s : State) : Context :=
  ⟨rep4 (unpackBytes4 (narrow 32 s.arg0)), encodeVersion (narrow 16 s.arg1), true⟩

/-- The payload transform of Encrypt: obfuscate, then the block-cipher layer (R218). -/
def encryptPayload (p : Config.Params) (key : Bytes16) (b : List Byte) : List Byte :=
  bcl p key (obfFwd p.obfATap b)

/-- The payload transform of Decrypt: the block-cipher layer, then the inverse obfuscation (R220). -/
def decryptPayload (p : Config.Params) (key : Bytes16) (b : List Byte) : List Byte :=
  obfInv p.obfATap (bcl p key b)

/-- The two writes of Encrypt on a range of at least 4 bytes: the header, then the payload transformed in place (R218). -/
def State.encryptRange (s : State) (x : Context) : State :=
  let s1 := s.store s.base (hdrBuild x.key x.ver (s.len - 4)).toList
  s1.store (s.base + 4) (encryptPayload s.cfg x.key (s1.pkt.readBytes (s.base + 4) (s.len - 4)))

/-- `CS_INIT` (R216): also on a context already valid (D27). -/
def execCsInit (c : Nat) (s : State) : Result :=
  .next (s.withContext c fun _ => (s.setContext c s.constructed).ok)

/-- `CS_ENCRYPT` (R218). -/
def execCsEncrypt (c : Nat) (s : State) : Result :=
  .next (s.withValidContext c fun x =>
    s.withRange (if s.len < 4 then s.raise .shortBuffer s.arg1 4 else (s.encryptRange x).ok))

/-- `CS_DECRYPT` (R220). -/
def execCsDecrypt (c : Nat) (s : State) : Result :=
  .next (s.withValidContext c fun x => s.transformRange (decryptPayload s.cfg x.key))

/-- `CS_GETKEY` (R222). -/
def execCsGetkey (c : Nat) (s : State) : Result :=
  .next (s.withValidContext c fun x => s.okWith 0 0 x.key.toList)

/-- `CS_GETVER` (R223). -/
def execCsGetver (c : Nat) (s : State) : Result :=
  .next (s.withValidContext c fun x => s.okWith (field16 (decodeVersion x.ver)) (field16 x.ver) [])

end Sys2Proof.Machine
end

