-- ==== Sys2Proof/Machine/PacketBuffer.lean ====
section
/-! DEFINITION. The packet builder commands (spec/40_packet_buffer.md). -/

namespace Sys2Proof.Machine

/-- The bytes of an `n`-byte integer operand, `le(n, ARG0 mod 2^(8n))` (R103 to R106). The `S` flag plays no part (R82). -/
def State.integerOperand (s : State) (n : Nat) : List Byte := le n s.arg0.toNat

/-- The bytes of a length-prefixed buffer: the 2-byte little-endian length modulo 2^16, then the buffer (R107). -/
def lengthPrefixed (b : List Byte) : List Byte := le 2 (b.length % 2 ^ 16) ++ b

/-- `PB_NEW` (R100). -/
def execPbNew (s : State) : Result := .next s.emptied.ok

/-- `PB_RAW` (R102). -/
def execPbRaw (s : State) : Result := .next (s.append s.din)

/-- `PB_ENC1` (R103); `S` is accepted and has no effect (R82). -/
def execPbEnc1 (_sgn : Bool) (s : State) : Result := .next (s.append (s.integerOperand 1))

/-- `PB_ENC2` (R104); `S` is accepted and has no effect (R82). -/
def execPbEnc2 (_sgn : Bool) (s : State) : Result := .next (s.append (s.integerOperand 2))

/-- `PB_ENC4` (R105); `S` is accepted and has no effect (R82). -/
def execPbEnc4 (_sgn : Bool) (s : State) : Result := .next (s.append (s.integerOperand 4))

/-- `PB_ENC8` (R106); `S` is accepted and has no effect (R82). -/
def execPbEnc8 (_sgn : Bool) (s : State) : Result := .next (s.append (s.integerOperand 8))

/-- `PB_LPBUF` (R107): prefix and bytes in one append. -/
def execPbLpbuf (s : State) : Result := .next (s.append (lengthPrefixed s.din))

/-- `PB_LPSTR` (R108): the bytes are not checked to be UTF-8. -/
def execPbLpstr (s : State) : Result := .next (s.append (lengthPrefixed s.din))

/-- `PB_DUMP` (R109). -/
def execPbDump (s : State) : Result := .next (s.withRange (s.okWith 0 0 s.rangeBytes))

/-- `PB_LEN` (R110). -/
def execPbLen (s : State) : Result := .next (s.okWith (fieldOfNat s.wp) 0 [])

end Sys2Proof.Machine
end

