-- ==== Sys2Proof/Machine/PacketCursor.lean ====
section
/-! DEFINITION. The packet reader commands (spec/41_packet_cursor.md). -/

namespace Sys2Proof.Machine

/-- A fixed-width read of `n` bytes, the value widened by the `S` flag (R122, R124). -/
def State.decodeInteger (s : State) (n : Nat) (sgn : Bool) : State :=
  s.readFixed n fun v s1 => s1.okWith (widen (8 * n) sgn v) 0 []

/-- `PC_OPEN` (R121). -/
def execPcOpen (s : State) : Result :=
  .next (if s.wp < s.base then s.raise .rangeError s.arg0 0 else (s.openCursor s.base).ok)

/-- `PC_DEC1` (R125). -/
def execPcDec1 (sgn : Bool) (s : State) : Result := .next (s.decodeInteger 1 sgn)

/-- `PC_DEC2` (R126). -/
def execPcDec2 (sgn : Bool) (s : State) : Result := .next (s.decodeInteger 2 sgn)

/-- `PC_DEC4` (R127). -/
def execPcDec4 (sgn : Bool) (s : State) : Result := .next (s.decodeInteger 4 sgn)

/-- `PC_DEC8` (R128): at 64 bits both widenings are the value itself. -/
def execPcDec8 (sgn : Bool) (s : State) : Result := .next (s.decodeInteger 8 sgn)

/-- `PC_LPBUF` (R131): the descriptor, not the bytes. -/
def execPcLpbuf (s : State) : Result :=
  .next (s.readPrefixed fun off len s1 => s1.okWith (fieldOfNat off) (fieldOfNat len) [])

/-- `PC_LPSTR` (R133): a copy of the bytes. -/
def execPcLpstr (s : State) : Result :=
  .next (s.readPrefixed fun off len s1 => s1.okWith 0 (fieldOfNat len) (s1.pkt.readBytes off len))

/-- `PC_REMAIN` (R134). -/
def execPcRemain (s : State) : Result := .next (s.okWith (fieldOfNat s.avail) 0 [])

end Sys2Proof.Machine
end

