-- ==== Sys2Proof/Machine/Shuffle.lean ====
section
/-! DEFINITION. Key rotation (spec/48_shuffle.md). -/

namespace Sys2Proof.Machine

/-- `T[x]`, the table lookup (R235, R239). -/
def tableAt (t : Vector Byte 256) (x : Byte) : Byte := t[x.toNat]

/-- The four byte updates of a round, each seeing what the ones above it left (R239). -/
def fourUpdates (t : Vector Byte 256) (a : Bytes4) (x : Byte) : Bytes4 :=
  let tx := tableAt t x
  let a0 := a.b0 + (tableAt t a.b1 - x)
  let a1 := a.b1 - (a.b2 ^^^ tx)
  let a2 := a.b2 ^^^ (tableAt t a.b3 + x)
  let a3 := (a.b3 - a0) + tx
  ⟨a0, a1, a2, a3⟩

/-- The update of a round, the default's or one nothing is known about (R239, D20). -/
def shuffleUpdate (p : Config.Params) (a : Bytes4) (x : Byte) : Bytes4 :=
  match p.shufRound with
  | .fourUpdates => fourUpdates p.shufTable a x
  | .uninterpreted => Config.openShuffleRound p.shufTable a x

/-- One round: the update, then the accumulator packed, rotated left by 3 and unpacked (R235, R239, R241). -/
def shuffleRound (p : Config.Params) (a : Bytes4) (x : Byte) : Bytes4 :=
  unpackBytes4 (rol32 (packBytes4 (shuffleUpdate p a x)) 3)

/-- `Shuffle(key)`: four rounds over the first four key bytes (R235, R239). -/
def shuffle (p : Config.Params) (key : Bytes16) : Bytes4 :=
  key.q0.toList.foldl (shuffleRound p) p.shufInit

/-- `CS_SHUFFLE` (R243); `VER` and `VALID` stay (R242). -/
def execCsShuffle (c : Nat) (s : State) : Result :=
  .next (s.withValidContext c fun x =>
    let a := shuffle s.cfg x.key
    (s.setContext c { x with key := rep4 a }).okWith (field32 (packBytes4 a)) 0 [])

end Sys2Proof.Machine
end

