-- ==== Sys2Proof/Machine/Dispatch.lean ====
section
/-! DEFINITION. One arm per command: which meaning a decoded command has. -/

namespace Sys2Proof.Machine

def exec (i : Instr) (s : State) : Host.Outcome State Fault Refusal :=
  match i with
  | .pbNew => Sys2Proof.Machine.execPbNew s
  | .pbRaw => Sys2Proof.Machine.execPbRaw s
  | .pbEnc1 sgn => Sys2Proof.Machine.execPbEnc1 sgn s
  | .pbEnc2 sgn => Sys2Proof.Machine.execPbEnc2 sgn s
  | .pbEnc4 sgn => Sys2Proof.Machine.execPbEnc4 sgn s
  | .pbEnc8 sgn => Sys2Proof.Machine.execPbEnc8 sgn s
  | .pbLpbuf => Sys2Proof.Machine.execPbLpbuf s
  | .pbLpstr => Sys2Proof.Machine.execPbLpstr s
  | .pbDump => Sys2Proof.Machine.execPbDump s
  | .pbLen => Sys2Proof.Machine.execPbLen s
  | .pcOpen => Sys2Proof.Machine.execPcOpen s
  | .pcDec1 sgn => Sys2Proof.Machine.execPcDec1 sgn s
  | .pcDec2 sgn => Sys2Proof.Machine.execPcDec2 sgn s
  | .pcDec4 sgn => Sys2Proof.Machine.execPcDec4 sgn s
  | .pcDec8 sgn => Sys2Proof.Machine.execPcDec8 sgn s
  | .pcLpbuf => Sys2Proof.Machine.execPcLpbuf s
  | .pcLpstr => Sys2Proof.Machine.execPcLpstr s
  | .pcRemain => Sys2Proof.Machine.execPcRemain s
  | .crc32 => Sys2Proof.Machine.execCrc32 s
  | .obfFwd => Sys2Proof.Machine.execObfFwd s
  | .obfInv => Sys2Proof.Machine.execObfInv s
  | .bclApply c => Sys2Proof.Machine.execBclApply c s
  | .hdrGetlen => Sys2Proof.Machine.execHdrGetlen s
  | .hdrBuild c => Sys2Proof.Machine.execHdrBuild c s
  | .csInit c => Sys2Proof.Machine.execCsInit c s
  | .csEncrypt c => Sys2Proof.Machine.execCsEncrypt c s
  | .csDecrypt c => Sys2Proof.Machine.execCsDecrypt c s
  | .csShuffle c => Sys2Proof.Machine.execCsShuffle c s
  | .csGetkey c => Sys2Proof.Machine.execCsGetkey c s
  | .csGetver c => Sys2Proof.Machine.execCsGetver c s

end Sys2Proof.Machine
end

