-- ==== Sys2Proof/Machine/Illegal.lean ====
section
/-! DEFINITION. The command words that are no command (spec/30_encoding.md R79), and how a word is put where the next step takes
its command from. -/

namespace Sys2Proof.Machine

/-- `ILLEGAL_COMMAND` (spec/60_exceptions.md R256): the command word is the information, no operand is looked at. -/
def raiseIllegal (s : State) : Result := .next (s.raise .illegalCommand (s.command.cw.setWidth 64) 0)

/-- The list of issued commands with the word of the oldest replaced. -/
def issueWord (inbox : List Command) (cw : Word32) : List Command :=
  match inbox with
  | [] => [⟨cw, 0, 0, []⟩]
  | c :: cs => { c with cw := cw } :: cs

end Sys2Proof.Machine
end

