-- ==== Sys2Proof/Machine/Step.lean ====
section
/-! DEFINITION. One step: the engine executes the oldest command issued (spec/20_memory.md R61, spec/30_encoding.md R70, R76). -/

namespace Sys2Proof.Machine

/-- One step. With no command issued nothing happens (spec/60_exceptions.md R266); a command word that decodes runs its
command's meaning; any other ends with `ILLEGAL_COMMAND` (R79). -/
def step (s : State) : Host.Outcome State Fault Refusal :=
  match s.inbox with
  | [] => .next s
  | cmd :: _ =>
    match decode cmd.cw with
    | .ok i => exec i s
    | .error _ => raiseIllegal s

/-- The command the host issues next, with the command word replaced; its operands stay, and where none is issued they are 0
and empty (R84; notes/assumptions/2.md). -/
def State.withFetchWord (s : State) (nbits w : Nat) : State :=
  { s with inbox := issueWord s.inbox (BitVec.ofNat 32 (w % 2 ^ nbits)) }

end Sys2Proof.Machine
end

