-- ==== Sys2Proof/Safety.lean ====
section
/-! DEFINITION. What claims are stated in: what a response leaves of the state, the invariants of spec/10_state.md R39, and which
parts of a state no command can observe. Status codes, fault bits and response fields are written here as the numbers of
spec/30_encoding.md R73 and R74, not through the machine's own operations, so that a claim says them again. -/

namespace Sys2Proof.Machine

/-- The oldest command is done and the host holds one response more; nothing else changed (R70). -/
def State.answered (s : State) (r : Response) : State :=
  { s with inbox := s.inbox.tail, outbox := s.outbox ++ [r] }

/-- The `OK` response with its results, while the fault register holds `fsr` (R73, R74). -/
def okResponse (fsr : BitVec 8) (res0 res1 : Field) (dout : List Byte) : Response :=
  { status := 0x00, info0 := 0, info1 := 0, res0 := res0, res1 := res1, dout := dout, fsr := fsr }

/-- The `END_OF_DATA` response, while the fault register holds `fsr` (R73, R252). -/
def endOfDataResponse (fsr : BitVec 8) (requested available : Nat) : Response :=
  { status := 0x01, info0 := BitVec.ofNat 64 requested, info1 := BitVec.ofNat 64 available, res0 := 0, res1 := 0, dout := [],
    fsr := fsr }

/-- A fault with status `0x80 + k` is reported and nothing but `FSR` bit `k` changed (R254). -/
def State.faulted (s : State) (k : Nat) (info0 info1 : Field) : State :=
  { s with
    fsr := s.fsr ||| BitVec.ofNat 8 (2 ^ k)
    inbox := s.inbox.tail
    outbox := s.outbox ++ [
      { status := BitVec.ofNat 8 (0x80 + k), info0 := info0, info1 := info1, res0 := 0, res1 := 0, dout := [],
        fsr := s.fsr ||| BitVec.ofNat 8 (2 ^ k) }] }

/-- The bytes `b` stand in the memory from address `lo` on. -/
def Memory.Holds (m : Memory) (lo : Nat) (b : List Byte) : Prop :=
  ∀ k (h : k < b.length), m.readByte (lo + k) = b[k]

/-- Every address outside the `n` bytes from `lo` on reads in `m'` as it does in `m`. -/
def Memory.SameOutside (m m' : Memory) (lo n : Nat) : Prop :=
  ∀ a, a < lo ∨ lo + n ≤ a → m'.readByte a = m.readByte a

/-- The Packet can take `n` bytes more without passing `PKT_CAP` (R101). -/
def State.roomFor (s : State) (n : Nat) : Bool :=
  match s.cfg.pktCap with
  | none => true
  | some cap => decide (s.wp + n ≤ cap)

/-- The command appends exactly the bytes `b` and answers `OK`: they stand from the old `WP` on, every other address reads as
before, and of the rest of the state only `WP` and the transaction change (R101). -/
def AppendsBytes (i : Instr) (s : State) (b : List Byte) : Prop :=
  ∃ m, exec i s = .next (({ s with pkt := m, wp := s.wp + b.length } : State).answered (okResponse s.fsr 0 0 []))
    ∧ m.Holds s.wp b ∧ s.pkt.SameOutside m s.wp b.length

/-- The command replaces the bytes of its range operand by `b` and answers `OK`: every address outside the range reads as before
and of the rest of the state only the transaction changes (R78). -/
def ReplacesRange (i : Instr) (s : State) (b : List Byte) : Prop :=
  ∃ m, exec i s = .next (({ s with pkt := m } : State).answered (okResponse s.fsr 0 0 []))
    ∧ m.Holds s.base b ∧ s.pkt.SameOutside m s.base s.len

/-- The packet memory is in its canonical form. -/
abbrev State.MemoryCanonical (s : State) : Prop := s.pkt.wf = true

/-- `RP ≤ RL ≤ WP` (R26). -/
abbrev State.PointersOrdered (s : State) : Prop := s.rp ≤ s.rl ∧ s.rl ≤ s.wp

/-- `WP ≤ PKT_CAP`, and no byte stands at or above `PKT_CAP` (R23, R26). -/
def State.withinCapacity (s : State) : Bool :=
  match s.cfg.pktCap with
  | none => true
  | some cap => decide (s.wp ≤ cap) && s.pkt.below cap

/-- `1 ≤ NCTX ≤ 16` (R8). -/
abbrev State.ContextsCounted (s : State) : Prop := 1 ≤ s.ctx.length ∧ s.ctx.length ≤ 16

/-- Every valid context's key is a 4-byte value repeated four times (R30, R39 b). -/
abbrev State.KeysRepeated (s : State) : Prop := ∀ x ∈ s.ctx, x.valid = true → x.key = rep4 x.key.q0

/-- `FSR` bits 6 and 7 are 0 (R33, R262). -/
abbrev State.FsrReservedZero (s : State) : Prop := s.fsr.getLsbD 6 = false ∧ s.fsr.getLsbD 7 = false

/-- The invariants R39 collects for the state after reset and after every command, with the legal values of the parameters (R8)
and the canonical form of memory. -/
abbrev State.Inv (s : State) : Prop :=
  s.MemoryCanonical ∧ s.PointersOrdered ∧ s.withinCapacity = true ∧ s.cfg.Legal ∧ s.ContextsCounted ∧ s.KeysRepeated
    ∧ s.FsrReservedZero

/-- Two contexts that differ only in what an unconstructed context holds (R32). -/
def Context.SameVisible (x y : Context) : Prop := x.valid = y.valid ∧ (x.valid = true → x = y)

/-- Two states that differ only in the bytes of `PKT` at or above `WP` and in `KEY` and `VER` of unconstructed contexts: what R23, R32
and R38 call unobservable. -/
structure State.SameVisible (s s' : State) : Prop where
  wp : s.wp = s'.wp
  rp : s.rp = s'.rp
  rl : s.rl = s'.rl
  fsr : s.fsr = s'.fsr
  inbox : s.inbox = s'.inbox
  outbox : s.outbox = s'.outbox
  cfg : s.cfg = s'.cfg
  bytes : ∀ a, a < s.wp → s.pkt.readByte a = s'.pkt.readByte a
  contexts : List.Forall₂ Context.SameVisible s.ctx s'.ctx

/-- The commands that add bytes to the Packet (R24). -/
abbrev IsAppend (i : Instr) : Prop :=
  i = .pbRaw ∨ (∃ g, i = .pbEnc1 g) ∨ (∃ g, i = .pbEnc2 g) ∨ (∃ g, i = .pbEnc4 g) ∨ (∃ g, i = .pbEnc8 g) ∨ i = .pbLpbuf ∨
    i = .pbLpstr

/-- The commands that read at the cursor (R25). -/
abbrev IsRead (i : Instr) : Prop :=
  (∃ g, i = .pcDec1 g) ∨ (∃ g, i = .pcDec2 g) ∨ (∃ g, i = .pcDec4 g) ∨ (∃ g, i = .pcDec8 g) ∨ i = .pcLpbuf ∨ i = .pcLpstr

/-- The commands that transform a range of the Packet in place (R24). -/
abbrev IsTransform (i : Instr) : Prop :=
  i = .obfFwd ∨ i = .obfInv ∨ (∃ c, i = .bclApply c) ∨ (∃ c, i = .csEncrypt c) ∨ (∃ c, i = .csDecrypt c)

/-! ### AES-256 by its indices, for the statement about the default block cipher -/

/-- A byte times 2 in the field of spec/45_aes256_ofb.md R187. -/
def twice (a : Byte) : Byte := (a <<< 1) ^^^ (if a.msb then 0x1B else 0)

/-- `w i r`, byte `r` of word `i`, is the key expansion of the key (R189); the round constant at word `8k` is `2^(k-1)`. -/
structure IsKeySchedule (key : Bytes32) (w : Nat → Nat → Byte) : Prop where
  first : ∀ i r, i < 8 → r < 4 → w i r = (key.lo.toList ++ key.hi.toList).getD (4 * i + r) 0
  rotated : ∀ i r, 8 ≤ i → i < 60 → i % 8 = 0 → r < 4 →
    w i r = w (i - 8) r ^^^ sbox (w (i - 1) ((r + 1) % 4)) ^^^ (if r = 0 then BitVec.ofNat 8 (2 ^ (i / 8 - 1)) else 0)
  substituted : ∀ i r, 8 ≤ i → i < 60 → i % 8 = 4 → r < 4 → w i r = w (i - 8) r ^^^ sbox (w (i - 1) r)
  plain : ∀ i r, 8 ≤ i → i < 60 → i % 4 ≠ 0 → r < 4 → w i r = w (i - 8) r ^^^ w (i - 1) r

/-- `s n r c`, the byte in row `r` and column `c` after round `n`, is the encryption of the block under the key schedule `w`, and
`out` is the block it leaves (R188, R191). -/
structure IsEncryption (w : Nat → Nat → Byte) (block out : Bytes16) (s : Nat → Nat → Nat → Byte) : Prop where
  start : ∀ r c, r < 4 → c < 4 → s 0 r c = block.toList.getD (4 * c + r) 0 ^^^ w c r
  middle : ∀ n c, 1 ≤ n → n ≤ 13 → c < 4 → ∀ a : Nat → Byte, (∀ r, a r = sbox (s (n - 1) r ((c + r) % 4))) →
    s n 0 c = twice (a 0) ^^^ (twice (a 1) ^^^ a 1) ^^^ a 2 ^^^ a 3 ^^^ w (4 * n + c) 0 ∧
    s n 1 c = a 0 ^^^ twice (a 1) ^^^ (twice (a 2) ^^^ a 2) ^^^ a 3 ^^^ w (4 * n + c) 1 ∧
    s n 2 c = a 0 ^^^ a 1 ^^^ twice (a 2) ^^^ (twice (a 3) ^^^ a 3) ^^^ w (4 * n + c) 2 ∧
    s n 3 c = (twice (a 0) ^^^ a 0) ^^^ a 1 ^^^ a 2 ^^^ twice (a 3) ^^^ w (4 * n + c) 3
  last : ∀ r c, r < 4 → c < 4 → s 14 r c = sbox (s 13 r ((c + r) % 4)) ^^^ w (56 + c) r
  result : ∀ r c, r < 4 → c < 4 → out.toList.getD (4 * c + r) 0 = s 14 r c

end Sys2Proof.Machine
end

