-- ==== Sys2Proof/Certificates/Slice0/Obligations.lean ====
section
/-! DEFINITION. The statements for the provers. A statement about a command gives its command word, and the state the command leaves
as the old state with every changed field named, so that it says the command's frame too. Every statement reads the transaction of
spec/30_encoding.md R70 in the model's form: the oldest element of `inbox` is the command, the new last element of `outbox` its
response (notes/assumptions/1.md); where it speaks of `exec` on a state with no command issued, the operands are 0 and empty
(notes/assumptions/14.md). Parameters are those the state carries (notes/assumptions/3.md). -/

section
open Sys2Proof Sys2Proof.Machine

/-! ## Encoding -/

/-- Decoding the command word of a well-formed command gives that command (spec/30_encoding.md R71, R75, R76). -/
def Obligations.DecodeUndoesEncode : Prop :=
  ∀ i : Instr, i.WellFormed → decode (encode i) = .ok i

/-- A word that decodes is the command word of the well-formed command it decodes to: no bit of a legal word is ignored (R71,
R75, R76). -/
def Obligations.EncodeUndoesDecode : Prop :=
  ∀ (w : Word32) (i : Instr), decode w = .ok i → i.WellFormed ∧ encode i = w

/-- The steps of R76 accept a word exactly when it selects a row of the command table (R75), and it selects at most one. -/
def Obligations.DecodeAcceptsTableWords : Prop :=
  (∀ w : Word32, (∃ i, decode w = .ok i) ↔ ∃ r ∈ opcodeTable, r.selects w = true) ∧
  (∀ w : Word32, ∀ r ∈ opcodeTable, ∀ r' ∈ opcodeTable, r.selects w = true → r'.selects w = true → r = r')

/-- Words written out from R71 and R75, one for each family, decode to the commands they stand for. -/
def Obligations.DecodeReadsWrittenWords : Prop :=
  decode 0b00000000000000000000000000010000 = .ok .pbNew ∧
  decode 0b00000000000000000001000000010011 = .ok (.pbEnc2 true) ∧
  decode 0b00000000000000000001000000100100 = .ok (.pcDec8 true) ∧
  decode 0b00000000000000000000000000110000 = .ok .crc32 ∧
  decode 0b00000000000000000000000001000001 = .ok .obfInv ∧
  decode 0b00000000000000000000010101001000 = .ok (.bclApply 5) ∧
  decode 0b00000000000000000000000101010001 = .ok (.hdrBuild 1) ∧
  decode 0b00000000000000000000111101100100 = .ok (.csGetkey 15) ∧
  decode 0b00000000000000000000001001100011 = .ok (.csShuffle 2) ∧
  decode 0b00000000000000000001000101100001 = .error .signedNotUsed ∧
  decode 0b00000000000000000010000000010000 = .error .reservedBits

/-! ## The step -/

/-- When the oldest command's word decodes to `i`, the step is `i`'s meaning; the step adds nothing around it (R61, R76). -/
def Obligations.StepRunsDecodedCommand : Prop :=
  ∀ (s : State) (cmd : Command) (rest : List Command) (i : Instr),
    s.inbox = cmd :: rest → decode cmd.cw = .ok i → step s = exec i s

/-- A command whose word selects no row of the table ends with `ILLEGAL_COMMAND`, its information the word itself, whatever its
operands; only `FSR` bit 0 changes (R79, R256). -/
def Obligations.IllegalWordIsReported : Prop :=
  ∀ (s : State) (cmd : Command) (rest : List Command),
    s.inbox = cmd :: rest → (∀ r ∈ opcodeTable, r.selects cmd.cw = false) →
      step s = .next (s.faulted 0 (cmd.cw.setWidth 64) 0)

/-- With no command issued a step changes nothing. The idle step is the model's choice (notes/assumptions/1.md); R266 says that
nothing happens between commands. -/
def Obligations.IdleStepChangesNothing : Prop :=
  ∀ s : State, s.inbox = [] → step s = .next s

/-- Every command, whatever its word, is answered by exactly one response, which reports the `FSR` the step leaves; the command
is taken from those issued (R70, R73). -/
def Obligations.EveryCommandIsAnsweredOnce : Prop :=
  ∀ (s : State) (cmd : Command) (rest : List Command), s.inbox = cmd :: rest →
    ∃ t r, step s = .next t ∧ t.inbox = rest ∧ t.outbox = s.outbox ++ [r] ∧ r.fsr = t.fsr

/-- The status of every response is `OK`, `END_OF_DATA` or one of the six faults that can happen; an `OK` carries no
information, any other status no result (R73, R74, R262). -/
def Obligations.ResponsesAreWellShaped : Prop :=
  ∀ (s t : State) (cmd : Command) (rest : List Command) (r : Response),
    s.inbox = cmd :: rest → step s = .next t → t.outbox = s.outbox ++ [r] →
      (r.status = 0x00 ∨ r.status = 0x01 ∨ ∃ k < 6, r.status = BitVec.ofNat 8 (0x80 + k)) ∧
      (r.status = 0x00 → r.info0 = 0 ∧ r.info1 = 0) ∧
      (r.status ≠ 0x00 → r.res0 = 0 ∧ r.res1 = 0 ∧ r.dout = [])

/-- A command that ends with a fault status `0x80 + k` sets `FSR` bit `k` and changes nothing else (R254). -/
def Obligations.FaultChangesOnlyItsStickyBit : Prop :=
  ∀ (s t : State) (cmd : Command) (rest : List Command) (r : Response),
    s.inbox = cmd :: rest → step s = .next t → t.outbox = s.outbox ++ [r] → r.status.msb = true →
      ∃ k < 6, t = s.faulted k r.info0 r.info1

/-- A command that ends with `END_OF_DATA` changes nothing, but for the 2 bytes a length-prefixed read may advance (R252, R39 e). -/
def Obligations.EndOfDataKeepsState : Prop :=
  ∀ (s t : State) (cmd : Command) (rest : List Command) (r : Response),
    s.inbox = cmd :: rest → step s = .next t → t.outbox = s.outbox ++ [r] → r.status = 0x01 →
      t = s.answered r ∨
      ((decode cmd.cw = .ok .pcLpbuf ∨ decode cmd.cw = .ok .pcLpstr) ∧
        t = ({ s with rp := s.rp + 2 } : State).answered r)

/-- No step clears an `FSR` bit and no step makes a valid context invalid (R39 c). -/
def Obligations.StepsNeverClearFlags : Prop :=
  ∀ s t : State, step s = .next t →
    s.fsr &&& t.fsr = s.fsr ∧
    ∀ (c : Nat) (x : Context), s.ctx[c]? = some x → x.valid = true → ∃ y : Context, t.ctx[c]? = some y ∧ y.valid = true

/-- A command writes no context but the one it names; of that one only `CS_INIT` and `CS_SHUFFLE` write anything, and
`CS_SHUFFLE` leaves `VER` and `VALID` (R30, R31, R66). -/
def Obligations.ContextsWrittenOnlyByTheirCommands : Prop :=
  ∀ (i : Instr) (s t : State), exec i s = .next t →
    t.ctx.length = s.ctx.length ∧
    (∀ c : Nat, i ≠ .csInit c → i ≠ .csShuffle c → t.ctx[c]? = s.ctx[c]?) ∧
    (∀ (c : Nat) (x : Context), i = .csShuffle c → s.ctx[c]? = some x →
      ∃ y : Context, t.ctx[c]? = some y ∧ y.ver = x.ver ∧ y.valid = x.valid)

/-- The pointers move only by their commands: `WP` never decreases but by `PB_NEW`, and only the appends increase it (R24); `RP`
decreases only by `PC_OPEN` and `PB_NEW`, `RL` changes only by them (R25, R135 a), and of the others only the cursor reads move
`RP`. -/
def Obligations.PointersMoveOnlyByTheirCommands : Prop :=
  ∀ (i : Instr) (s t : State), exec i s = .next t →
    (i ≠ .pbNew → s.wp ≤ t.wp) ∧ (¬ IsAppend i → t.wp ≤ s.wp) ∧
    (i ≠ .pcOpen → i ≠ .pbNew → s.rp ≤ t.rp ∧ t.rl = s.rl) ∧
    (i ≠ .pcOpen → i ≠ .pbNew → ¬ IsRead i → t.rp = s.rp)

/-- No command writes a byte of `PKT` at or above `WP`, but for an append writing the bytes it adds; and no command but the appends and
the in-place transforms writes a byte at all (R53, R37). -/
def Obligations.NoWriteBeyondThePacket : Prop :=
  ∀ (i : Instr) (s t : State), s.Inv → exec i s = .next t →
    (∀ a, s.wp ≤ a → t.wp ≤ a → t.pkt.readByte a = s.pkt.readByte a) ∧
    (IsAppend i → ∀ a, a < s.wp → t.pkt.readByte a = s.pkt.readByte a) ∧
    (¬ IsAppend i → ¬ IsTransform i → t.pkt = s.pkt)

/-- The parameters, which the state carries by the model's choice (notes/assumptions/3.md), never change (R34): neither those in
`cfg` nor `NCTX`, the number of contexts. -/
def Obligations.ParametersNeverChange : Prop :=
  ∀ s t : State, step s = .next t → t.cfg = s.cfg ∧ t.ctx.length = s.ctx.length

/-- No command reads a response of an earlier one: a step does the same whatever the host has been answered before (R21). That the
answers stand in the state is the model's choice (notes/assumptions/1.md). -/
def Obligations.StepIgnoresPastResponses : Prop :=
  ∀ (s t : State) (past : List Response), step s = .next t →
    step { s with outbox := past } = .next { t with outbox := past ++ t.outbox.drop s.outbox.length }

/-- The fault register affects no command: with any other `FSR` a step answers the same but for the `FSR` it reports, and leaves the same
state but for `FSR` (R33, R254). -/
def Obligations.FaultRegisterAffectsNoCommand : Prop :=
  ∀ (s t : State) (f : BitVec 8), step s = .next t →
    ∃ t', step { s with fsr := f } = .next t' ∧
      { t' with fsr := t.fsr, outbox := t.outbox } = t ∧
      t'.outbox.map (fun r => { r with fsr := 0 }) = t.outbox.map (fun r => { r with fsr := 0 })

/-- The bytes of `PKT` at or above `WP`, and `KEY` and `VER` of a context not yet constructed, are unobservable: two states that
differ only there answer the same and go on differing only there (R23, R32, R38). So nothing observable rests on the values the
model gives them at reset (notes/assumptions/5.md, 6.md). -/
def Obligations.UnwrittenStateIsUnobservable : Prop :=
  ∀ s s' t : State, s.Inv → s'.Inv → s.SameVisible s' → step s = .next t →
    ∃ t', step s' = .next t' ∧ t.SameVisible t'

/-! ## Reset and the invariants -/

/-- After reset the Packet is empty, no cursor is open, no context is valid and no fault is recorded, whatever the parameters
(R38, R280). -/
def Obligations.ResetClearsTheEngine : Prop :=
  ∀ (p : Config.Params) (n : Nat),
    (State.resetWith p n).wp = 0 ∧ (State.resetWith p n).rp = 0 ∧ (State.resetWith p n).rl = 0 ∧
    (State.resetWith p n).fsr = 0 ∧ (State.resetWith p n).ctx.length = n ∧
    ∀ x ∈ (State.resetWith p n).ctx, x.valid = false

/-- The invariants hold after reset, for every legal value of the parameters and for the defaults (R39, R8, and R262 for `FSR` bit
6). The capacity among the defaults (notes/assumptions/4.md) and the canonical form of memory (notes/assumptions/21.md) are the
model's choice. -/
def Obligations.ResetMeetsTheInvariants : Prop :=
  (∀ (p : Config.Params) (n : Nat), p.Legal → 1 ≤ n → n ≤ 16 → (State.resetWith p n).Inv) ∧ State.reset.Inv

/-- Every step keeps the invariants: `RP ≤ RL ≤ WP ≤ PKT_CAP` (R26), every valid key a seed repeated four times (R30), `FSR` bit 6
(R262) and bit 7 (R33) 0, the parameters legal (R8, R142), as R39 collects them. That memory stays in its canonical form, with nothing at
or above the capacity, is an invariant of the model's choice of how to hold it (notes/assumptions/21.md). -/
def Obligations.StepKeepsTheInvariants : Prop :=
  ∀ s t : State, s.Inv → step s = .next t → t.Inv

/-! ## Packet builder -/

/-- `PB_NEW`: an empty Packet, the cursor closed, nothing else changed (R100). -/
def Obligations.PbNewEmptiesThePacket : Prop :=
  encode .pbNew = 0x00000010 ∧
  ∀ s : State, exec .pbNew s =
    .next (({ s with wp := 0, rp := 0, rl := 0 } : State).answered (okResponse s.fsr 0 0 []))

/-- `PB_ENC1`, `PB_ENC2`, `PB_ENC4`, `PB_ENC8` append the low bytes of `ARG0`, least significant first, whatever the `S` flag (R103 to
R106, R82). -/
def Obligations.IntegerAppendsAreLittleEndian : Prop :=
  (∀ g, encode (.pbEnc1 g) = 0x12 ||| (if g then 0x1000 else 0)) ∧ (∀ g, encode (.pbEnc2 g) = 0x13 ||| (if g then 0x1000 else 0)) ∧
  (∀ g, encode (.pbEnc4 g) = 0x14 ||| (if g then 0x1000 else 0)) ∧ (∀ g, encode (.pbEnc8 g) = 0x15 ||| (if g then 0x1000 else 0)) ∧
  ∀ (s : State) (g : Bool), s.Inv →
    (s.roomFor 1 = true → AppendsBytes (.pbEnc1 g) s [s.arg0.extractLsb' 0 8]) ∧
    (s.roomFor 2 = true → AppendsBytes (.pbEnc2 g) s [s.arg0.extractLsb' 0 8, s.arg0.extractLsb' 8 8]) ∧
    (s.roomFor 4 = true → AppendsBytes (.pbEnc4 g) s
      [s.arg0.extractLsb' 0 8, s.arg0.extractLsb' 8 8, s.arg0.extractLsb' 16 8, s.arg0.extractLsb' 24 8]) ∧
    (s.roomFor 8 = true → AppendsBytes (.pbEnc8 g) s
      [s.arg0.extractLsb' 0 8, s.arg0.extractLsb' 8 8, s.arg0.extractLsb' 16 8, s.arg0.extractLsb' 24 8,
       s.arg0.extractLsb' 32 8, s.arg0.extractLsb' 40 8, s.arg0.extractLsb' 48 8, s.arg0.extractLsb' 56 8])

/-- `PB_RAW` appends `DIN`; `PB_LPBUF` and `PB_LPSTR` append `DIN` after its length modulo 2^16, low byte first (R102, R107, R108). -/
def Obligations.StreamAppendsKeepTheirBytes : Prop :=
  encode .pbRaw = 0x00000011 ∧ encode .pbLpbuf = 0x00000016 ∧ encode .pbLpstr = 0x00000017 ∧
  ∀ s : State, s.Inv →
    (s.roomFor s.din.length = true → AppendsBytes .pbRaw s s.din) ∧
    (s.roomFor (2 + s.din.length) = true →
      AppendsBytes .pbLpbuf s
        (BitVec.ofNat 8 s.din.length :: BitVec.ofNat 8 (s.din.length / 256) :: s.din) ∧
      AppendsBytes .pbLpstr s
        (BitVec.ofNat 8 s.din.length :: BitVec.ofNat 8 (s.din.length / 256) :: s.din))

/-- An append that would pass `PKT_CAP` is refused whole with `CAPACITY_EXCEEDED`, reporting the length the Packet would have
reached and the capacity (R101, R261). What a field holds for a number of 2^64 or more is the model's free value
(notes/assumptions/7.md). -/
def Obligations.AppendsBeyondCapacityAreRefused : Prop :=
  ∀ (s : State) (cap : Nat), s.cfg.pktCap = some cap →
    ∀ (i : Instr) (n : Nat),
      ((i = .pbRaw ∧ n = s.din.length) ∨ ((∃ g, i = .pbEnc1 g) ∧ n = 1) ∨ ((∃ g, i = .pbEnc2 g) ∧ n = 2) ∨
        ((∃ g, i = .pbEnc4 g) ∧ n = 4) ∨ ((∃ g, i = .pbEnc8 g) ∧ n = 8) ∨
        ((i = .pbLpbuf ∨ i = .pbLpstr) ∧ n = 2 + s.din.length)) →
      cap < s.wp + n →
      ∃ i0 i1, exec i s = .next (s.faulted 5 i0 i1) ∧
        (s.wp + n < 2 ^ 64 → i0 = BitVec.ofNat 64 (s.wp + n)) ∧ (cap < 2 ^ 64 → i1 = BitVec.ofNat 64 cap)

/-- `PB_DUMP` returns the bytes of its range and changes nothing; a range that does not lie in the Packet is `RANGE_ERROR` (R109). -/
def Obligations.PbDumpReturnsTheRange : Prop :=
  encode .pbDump = 0x00000018 ∧
  ∀ s : State,
    (s.arg0.toNat + s.arg1.toNat ≤ s.wp →
      ∃ d : List Byte, exec .pbDump s = .next (s.answered (okResponse s.fsr 0 0 d)) ∧ d.length = s.arg1.toNat ∧
        s.pkt.Holds s.arg0.toNat d) ∧
    (s.wp < s.arg0.toNat + s.arg1.toNat → exec .pbDump s = .next (s.faulted 3 s.arg0 s.arg1))

/-- `PB_LEN` returns `WP` and `PC_REMAIN` returns `RL - RP`, changing nothing (R110, R134). They answer in every state; what the
field holds for a number of 2^64 or more is the model's free value (notes/assumptions/7.md). -/
def Obligations.LengthsAreReported : Prop :=
  encode .pbLen = 0x00000019 ∧ encode .pcRemain = 0x00000027 ∧
  ∀ s : State,
    (∃ v, exec .pbLen s = .next (s.answered (okResponse s.fsr v 0 [])) ∧ (s.wp < 2 ^ 64 → v = BitVec.ofNat 64 s.wp)) ∧
    (∃ v, exec .pcRemain s = .next (s.answered (okResponse s.fsr v 0 [])) ∧
      (s.rl - s.rp < 2 ^ 64 → v = BitVec.ofNat 64 (s.rl - s.rp)))

/-! ## Packet cursor -/

/-- `PC_OPEN` opens the cursor at its start index on the Packet as it stands; a start index beyond `WP` is `RANGE_ERROR` with 0 as its
second value (R121). -/
def Obligations.PcOpenSetsTheCursor : Prop :=
  encode .pcOpen = 0x00000020 ∧
  ∀ s : State,
    (s.arg0.toNat ≤ s.wp →
      exec .pcOpen s =
        .next (({ s with rp := s.arg0.toNat, rl := s.wp } : State).answered (okResponse s.fsr 0 0 []))) ∧
    (s.wp < s.arg0.toNat → exec .pcOpen s = .next (s.faulted 3 s.arg0 0))

/-- `PC_DEC1`, `PC_DEC2`, `PC_DEC4` and `PC_DEC8` read a little-endian integer at `RP`, widen it by the `S` flag and advance `RP` by its
width (R122, R124 to R128). Two's complement is the spec's general knowledge (notes/assumptions/12.md). -/
def Obligations.IntegerReadsAreLittleEndian : Prop :=
  (∀ g, encode (.pcDec1 g) = 0x21 ||| (if g then 0x1000 else 0)) ∧ (∀ g, encode (.pcDec2 g) = 0x22 ||| (if g then 0x1000 else 0)) ∧
  (∀ g, encode (.pcDec4 g) = 0x23 ||| (if g then 0x1000 else 0)) ∧ (∀ g, encode (.pcDec8 g) = 0x24 ||| (if g then 0x1000 else 0)) ∧
  ∀ (s : State) (g : Bool) (b0 b1 b2 b3 b4 b5 b6 b7 : Byte),
    (s.rp + 1 ≤ s.rl → s.pkt.Holds s.rp [b0] →
      exec (.pcDec1 g) s = .next (({ s with rp := s.rp + 1 } : State).answered
        (okResponse s.fsr (if g then b0.signExtend 64 else b0.zeroExtend 64) 0 []))) ∧
    (s.rp + 2 ≤ s.rl → s.pkt.Holds s.rp [b0, b1] →
      exec (.pcDec2 g) s = .next (({ s with rp := s.rp + 2 } : State).answered
        (okResponse s.fsr (if g then (b1 ++ b0).signExtend 64 else (b1 ++ b0).zeroExtend 64) 0 []))) ∧
    (s.rp + 4 ≤ s.rl → s.pkt.Holds s.rp [b0, b1, b2, b3] →
      exec (.pcDec4 g) s = .next (({ s with rp := s.rp + 4 } : State).answered
        (okResponse s.fsr (if g then (b3 ++ b2 ++ b1 ++ b0).signExtend 64 else (b3 ++ b2 ++ b1 ++ b0).zeroExtend 64) 0 []))) ∧
    (s.rp + 8 ≤ s.rl → s.pkt.Holds s.rp [b0, b1, b2, b3, b4, b5, b6, b7] →
      exec (.pcDec8 g) s = .next (({ s with rp := s.rp + 8 } : State).answered
        (okResponse s.fsr (b7 ++ b6 ++ b5 ++ b4 ++ b3 ++ b2 ++ b1 ++ b0) 0 [])))

/-- A fixed-width read with fewer bytes ahead than it needs ends with `END_OF_DATA`, the bytes needed and the bytes available, and the
cursor stays (R122, R252). -/
def Obligations.ShortIntegerReadsChangeNothing : Prop :=
  ∀ (s : State) (g : Bool) (i : Instr) (n : Nat),
    ((i = .pcDec1 g ∧ n = 1) ∨ (i = .pcDec2 g ∧ n = 2) ∨ (i = .pcDec4 g ∧ n = 4) ∨ (i = .pcDec8 g ∧ n = 8)) →
    s.rl - s.rp < n →
      exec i s = .next (s.answered (endOfDataResponse s.fsr n (s.rl - s.rp)))

/-- `PC_LPBUF` returns the offset and length of a length-prefixed buffer and `PC_LPSTR` a copy of its bytes; both advance `RP` past
it (R129, R131, R133). What `RES0` holds for an offset of 2^64 or more is the model's free value (notes/assumptions/7.md). -/
def Obligations.PrefixedReadsReturnTheItem : Prop :=
  encode .pcLpbuf = 0x00000025 ∧ encode .pcLpstr = 0x00000026 ∧
  ∀ (s : State) (b0 b1 : Byte) (n : Nat),
    s.rp + 2 + n ≤ s.rl → s.pkt.Holds s.rp [b0, b1] → n = b0.toNat + 256 * b1.toNat →
      (∃ off, exec .pcLpbuf s = .next (({ s with rp := s.rp + 2 + n } : State).answered
          (okResponse s.fsr off (BitVec.ofNat 64 n) [])) ∧
        (s.rp + 2 < 2 ^ 64 → off = BitVec.ofNat 64 (s.rp + 2))) ∧
      (∃ d : List Byte, exec .pcLpstr s = .next (({ s with rp := s.rp + 2 + n } : State).answered
          (okResponse s.fsr 0 (BitVec.ofNat 64 n) d)) ∧ d.length = n ∧ s.pkt.Holds (s.rp + 2) d)

/-- The two failures of a length-prefixed read: with fewer than 2 bytes ahead the cursor stays; with the length field read and fewer
bytes ahead than it declares, the cursor stands just after the length field and the available bytes are counted from there
(R130). What `INFO1` holds for 2^64 or more available bytes does not arise: fewer than 65536 are. -/
def Obligations.PrefixedReadsFailInTwoWays : Prop :=
  ∀ (s : State) (i : Instr), (i = .pcLpbuf ∨ i = .pcLpstr) →
    (s.rl - s.rp < 2 → exec i s = .next (s.answered (endOfDataResponse s.fsr 2 (s.rl - s.rp)))) ∧
    (∀ (b0 b1 : Byte) (n : Nat), s.rp + 2 ≤ s.rl → s.pkt.Holds s.rp [b0, b1] → n = b0.toNat + 256 * b1.toNat →
      s.rl < s.rp + 2 + n →
        exec i s = .next (({ s with rp := s.rp + 2 } : State).answered
          (endOfDataResponse s.fsr n (s.rl - (s.rp + 2)))))

/-- One integer appended, with the cursor then opened where it starts, is read back unsigned modulo its width, and no byte remains
(R135 c for a sequence of one append). IntegerReadsAreLittleEndian says what the signed read gives. -/
def Obligations.IntegerRoundTrip : Prop :=
  ∀ (s : State) (g : Bool) (enc dec : Instr) (n : Nat) (c1 c2 c3 : Command) (rest : List Command),
    ((enc = .pbEnc1 g ∧ dec = .pcDec1 false ∧ n = 1) ∨ (enc = .pbEnc2 g ∧ dec = .pcDec2 false ∧ n = 2) ∨
      (enc = .pbEnc4 g ∧ dec = .pcDec4 false ∧ n = 4) ∨ (enc = .pbEnc8 g ∧ dec = .pcDec8 false ∧ n = 8)) →
    s.Inv → s.roomFor n = true → s.inbox = c1 :: c2 :: c3 :: rest →
    c1.cw = encode enc → c2.cw = encode .pcOpen → c2.arg0.toNat = s.wp → c3.cw = encode dec →
      ∃ s1 s2 s3, step s = .next s1 ∧ step s1 = .next s2 ∧ step s2 = .next s3 ∧ s3.inbox = rest ∧
        s3.rp = s.wp + n ∧ s3.rl = s.wp + n ∧ s3.wp = s.wp + n ∧
        s3.outbox = s.outbox ++ [okResponse s.fsr 0 0 [], okResponse s.fsr 0 0 [],
          okResponse s.fsr (BitVec.ofNat 64 (c1.arg0.toNat % 2 ^ (8 * n))) 0 []]

/-- A buffer of at most 65535 bytes appended with its length (R107, R108) is read back whole by `PC_LPSTR` (R133), and no byte
remains. PrefixedReadsReturnTheItem says what the descriptor read gives. -/
def Obligations.PrefixedRoundTrip : Prop :=
  ∀ (s : State) (enc : Instr) (c1 c2 c3 : Command) (rest : List Command),
    (enc = .pbLpbuf ∨ enc = .pbLpstr) → s.Inv → s.roomFor (2 + c1.din.length) = true → c1.din.length ≤ 65535 →
    s.inbox = c1 :: c2 :: c3 :: rest →
    c1.cw = encode enc → c2.cw = encode .pcOpen → c2.arg0.toNat = s.wp → c3.cw = encode .pcLpstr →
      ∃ s1 s2 s3, step s = .next s1 ∧ step s1 = .next s2 ∧ step s2 = .next s3 ∧ s3.inbox = rest ∧
        s3.rp = s.wp + 2 + c1.din.length ∧ s3.rl = s3.rp ∧ s3.wp = s3.rp ∧
        s3.outbox = s.outbox ++ [okResponse s.fsr 0 0 [], okResponse s.fsr 0 0 [],
          okResponse s.fsr 0 (BitVec.ofNat 64 c1.din.length) c1.din]

/-! ## Checksum -/

/-- `CRC32` returns the checksum of `DIN` with the low 32 bits of `ARG0` as its seed, and changes nothing (R140, R143); and what the
checksum is: under a convention of R141's bit order the register starts as the masked seed, takes each byte into its low 8 bits, makes
8 inner steps and is masked at the end (R141); under the unknown one it goes through the bytes with the free byte step. The
convention is the spec's general knowledge and a parameter (notes/assumptions/10.md). -/
def Obligations.Crc32ReportsTheChecksum : Prop :=
  encode .crc32 = 0x00000030 ∧
  (∀ s : State, exec .crc32 s =
    .next (s.answered (okResponse s.fsr ((crc32 s.cfg (s.arg0.setWidth 32) s.din).setWidth 64) 0 []))) ∧
  (∀ (p : Config.Params) (cv : Config.CrcConvention) (seed : Word32) (data : List Byte),
    p.crc = .convention cv → cv.order = .lsbFirst →
      ∃ reg : Nat → Word32, reg 0 = seed ^^^ cv.seedMask ∧ crc32 p seed data = reg data.length ^^^ cv.resultMask ∧
        ∀ k, k < data.length → ∃ c : Nat → Word32,
          c 0 = reg k ^^^ (data.getD k 0).setWidth 32 ∧ reg (k + 1) = c 8 ∧
          ∀ n, n < 8 → c (n + 1) = if (c n).getLsbD 0 then (c n >>> 1) ^^^ cv.poly else c n >>> 1) ∧
  (∀ (p : Config.Params) (seed : Word32) (data : List Byte), p.crc = .uninterpreted →
    crc32 p seed data = data.foldl Config.openCrcByte seed)

/-- The checksum composes over concatenation through its seed, and the empty sequence returns the seed, under every legal convention
(R142). A convention is legal when its two masks agree, the spec's default among them (notes/assumptions/10.md). -/
def Obligations.Crc32Composes : Prop :=
  ∀ p : Config.Params, p.Legal → ∀ (s : Word32) (a b : List Byte),
    crc32 p (crc32 p s a) b = crc32 p s (a ++ b) ∧ crc32 p s [] = s

/-- The table-driven form computes the same checksum as the bit-wise one, for every polynomial, bit order and masks (R141). The
convention is the spec's general knowledge and a parameter (notes/assumptions/10.md). -/
def Obligations.Crc32TableFormAgrees : Prop :=
  ∀ (cv : Config.CrcConvention) (s : Word32) (data : List Byte), crcOverByTable cv s data = crcOver cv s data

/-! ## Obfuscation -/

/-- The forward transform is three rounds of sub-pass A then sub-pass B (R150), and the sub-passes by index: sub-pass A takes the byte at
distance `j` from the end for `j = 1, 2, ...`, sub-pass B the byte at index `i` and distance `n - i` for `i = 0, 1, ...`; each
accumulator starts at 0 (R152, R153, R154). Which value sub-pass A's accumulator takes is the choice D17 of the spec, a parameter
here (notes/assumptions/11.md): the value before the XOR with it, after that XOR (the default), or after the rotate. -/
def Obligations.ObfuscationSubPassesByIndex : Prop :=
  ∀ (tap : Config.Tap) (b : List Byte),
    obfFwd tap b = subPassB (subPassA tap (subPassB (subPassA tap (subPassB (subPassA tap b))))) ∧
    ((subPassA tap b).length = b.length ∧ ∃ acc : Nat → Byte, acc 1 = 0 ∧
      ∀ j, 1 ≤ j → j ≤ b.length → ∃ before after rotated : Byte,
        before = rol8 (b.getD (b.length - j) 0) 3 + BitVec.ofNat 8 j ∧ after = before ^^^ acc j ∧ rotated = ror8 after (j % 8) ∧
        (tap = .preAccXor → acc (j + 1) = before) ∧ (tap = .postAccXor → acc (j + 1) = after) ∧
        (tap = .postRot → acc (j + 1) = rotated) ∧
        (subPassA tap b).getD (b.length - j) 0 = (rotated ^^^ 0xFF) + 0x48) ∧
    ((subPassB b).length = b.length ∧ ∃ acc : Nat → Byte, acc 0 = 0 ∧
      ∀ i, i < b.length →
        acc (i + 1) = (rol8 (b.getD i 0) 4 + BitVec.ofNat 8 (b.length - i)) ^^^ acc i ∧
        (subPassB b).getD i 0 = ror8 (acc (i + 1) ^^^ 0x13) 3)

/-- The inverse transform inverts the forward one and is inverted by it, on byte sequences of every length and under each reading of
the accumulator; both keep the length (R155, R156). -/
def Obligations.ObfuscationIsInvertible : Prop :=
  ∀ (tap : Config.Tap) (b : List Byte),
    obfInv tap (obfFwd tap b) = b ∧ obfFwd tap (obfInv tap b) = b ∧
    (obfFwd tap b).length = b.length ∧ (obfInv tap b).length = b.length

/-- `OBF_FWD` and `OBF_INV` replace the bytes of their range by their transform and change nothing else; a range that does not lie in
the Packet is `RANGE_ERROR` (R157, R158). -/
def Obligations.ObfuscationCommandsTransformTheRange : Prop :=
  encode .obfFwd = 0x00000040 ∧ encode .obfInv = 0x00000041 ∧
  ∀ (s : State) (b : List Byte), s.Inv →
    (s.base + s.len ≤ s.wp → b.length = s.len → s.pkt.Holds s.base b →
      ReplacesRange .obfFwd s (obfFwd s.cfg.obfATap b) ∧ ReplacesRange .obfInv s (obfInv s.cfg.obfATap b)) ∧
    (s.wp < s.base + s.len →
      exec .obfFwd s = .next (s.faulted 3 s.arg0 s.arg1) ∧ exec .obfInv s = .next (s.faulted 3 s.arg0 s.arg1))

/-! ## Block-cipher layer -/

/-- The keystream of `n` bytes has `n` bytes and is the beginning of every longer one, whichever keystream function the machine has
(R171); the default one is output feedback: byte `k` is byte `k mod 16` of the initialisation vector encrypted `k / 16 + 1` times
under the application key (R190); the unknown one gives the free bytes in order. The default is the spec's general knowledge
(notes/assumptions/8.md). -/
def Obligations.KeystreamIsConsistent : Prop :=
  ∀ (p : Config.Params) (iv : Bytes16) (m n : Nat), m ≤ n →
    (keystream p iv n).length = n ∧ (keystream p iv n).take m = keystream p iv m ∧
    ∀ k, k < n →
      (p.keystream = .aes256Ofb → (keystream p iv n).getD k 0 = ((aesEnc p.appKey)^[k / 16 + 1] iv).toList.getD (k % 16) 0) ∧
      (p.keystream = .uninterpreted → (keystream p iv n).getD k 0 = Config.openKeystream p.appKey iv k)

/-- The layer by offset: byte `q` of the target is XORed with keystream byte `q` below 1456 and with keystream byte
`(q - 1456) mod 1460` from there on (R172 to R174). -/
def Obligations.LayerMasksByChunkOffset : Prop :=
  ∀ (p : Config.Params) (iv : Bytes16) (b : List Byte),
    (bcl p iv b).length = b.length ∧
    ∀ q, q < b.length →
      (bcl p iv b).getD q 0 =
        b.getD q 0 ^^^ (keystream p iv 1460).getD (if q < 1456 then q else (q - 1456) % 1460) 0

/-- The layer applied twice under one key restores the bytes, whichever keystream function the machine has (R176). -/
def Obligations.LayerIsSelfInverse : Prop :=
  ∀ (p : Config.Params) (iv : Bytes16) (b : List Byte), bcl p iv (bcl p iv b) = b

/-- `BCL_APPLY` masks the bytes of its range under its context's key and changes nothing else (R177). -/
def Obligations.BclApplyMasksTheRange : Prop :=
  (∀ c, c < 16 → encode (.bclApply c) = BitVec.ofNat 32 (0x48 + 256 * c)) ∧
  ∀ (s : State) (c : Nat) (x : Context) (b : List Byte), s.Inv →
    s.ctx[c]? = some x → x.valid = true → s.base + s.len ≤ s.wp → b.length = s.len → s.pkt.Holds s.base b →
      ReplacesRange (.bclApply c) s (bcl s.cfg x.key b)

/-- The S-box table is its formula: every entry is the affine step of the field inverse of its index, and of 0 for index 0
(R187). The table is the spec's general knowledge (notes/assumptions/8.md). -/
def Obligations.SboxIsTheAffineInverse : Prop :=
  sbox 0 = sboxAffine 0 ∧ ∀ a : Byte, a ≠ 0 → ∃ i : Byte, gmul a i = 1 ∧ sbox a = sboxAffine i

/-- The default block cipher is AES-256 by its indices: for every key and block there are a key schedule by the recurrence of R189 and
states of the fourteen rounds of R188 and R191 that lead from the block to its encryption. The cipher is the spec's general knowledge
(notes/assumptions/8.md). -/
def Obligations.AesFollowsItsRounds : Prop :=
  ∀ (key : Bytes32) (block : Bytes16), ∃ (w : Nat → Nat → Byte) (s : Nat → Nat → Nat → Byte),
    IsKeySchedule key w ∧ IsEncryption w block (aesEnc key block) s

/-! ## Header codec -/

/-- The version code is 0xFFFF minus the version with its two bytes swapped; decoding swaps the bytes and subtracts from 0xFFFF, and
inverts encoding both ways (R200, R201). -/
def Obligations.VersionCodecIsInvertible : Prop :=
  ∀ v : BitVec 16,
    encodeVersion v = (0xFFFF - v).extractLsb' 0 8 ++ (0xFFFF - v).extractLsb' 8 8 ∧
    decodeVersion v = 0xFFFF - (v.extractLsb' 0 8 ++ v.extractLsb' 8 8) ∧
    decodeVersion (encodeVersion v) = v ∧ encodeVersion (decodeVersion v) = v

/-- Parsing a header gives back the payload length it was built for, modulo 2^16, for every key and version (R206, R209). -/
def Obligations.HeaderLengthIsRecovered : Prop :=
  ∀ (key : Bytes16) (ver : BitVec 16) (n : Nat), hdrGetLen (hdrBuild key ver n) = BitVec.ofNat 16 n

/-- `HDR_GETLEN` returns the XOR of the two low halves of `ARG0` and changes nothing (R207). -/
def Obligations.HdrGetlenXorsTheHalves : Prop :=
  encode .hdrGetlen = 0x00000050 ∧
  ∀ s : State, exec .hdrGetlen s =
    .next (s.answered (okResponse s.fsr ((s.arg0.extractLsb' 0 16 ^^^ s.arg0.extractLsb' 16 16).setWidth 64) 0 []))

/-- `HDR_BUILD` returns the header bytes, byte 0 lowest: key byte 2 and key byte 3 masked by the version code's high and low byte, then
the same two masked further by the length's low and high byte (R203, R208). -/
def Obligations.HdrBuildReturnsTheHeader : Prop :=
  (∀ c, c < 16 → encode (.hdrBuild c) = BitVec.ofNat 32 (0x51 + 256 * c)) ∧
  ∀ (s : State) (c : Nat) (x : Context) (h0 h1 : Byte), s.ctx[c]? = some x → x.valid = true →
    h0 = x.key.q0.b2 ^^^ x.ver.extractLsb' 8 8 → h1 = x.key.q0.b3 ^^^ x.ver.extractLsb' 0 8 →
      exec (.hdrBuild c) s = .next (s.answered (okResponse s.fsr
        (((h1 ^^^ s.arg0.extractLsb' 8 8) ++ (h0 ^^^ s.arg0.extractLsb' 0 8) ++ h1 ++ h0).setWidth 64) 0 []))

/-! ## Cipher state -/

/-- `CS_INIT` constructs its context from the seed bytes of `ARG0` and the version of `ARG1`, valid or not before, and changes nothing
else (R216). -/
def Obligations.CsInitConstructsTheContext : Prop :=
  (∀ c, c < 16 → encode (.csInit c) = BitVec.ofNat 32 (0x60 + 256 * c)) ∧
  ∀ (s : State) (c : Nat) (seed : Bytes4), c < s.ctx.length →
    seed = ⟨s.arg0.extractLsb' 0 8, s.arg0.extractLsb' 8 8, s.arg0.extractLsb' 16 8, s.arg0.extractLsb' 24 8⟩ →
      exec (.csInit c) s =
        .next (({ s with ctx := s.ctx.set c ⟨⟨seed, seed, seed, seed⟩, encodeVersion (s.arg1.extractLsb' 0 16), true⟩ } : State).answered
          (okResponse s.fsr 0 0 []))

/-- `CS_ENCRYPT` writes the header for the payload length into the first 4 bytes of its range and replaces the payload by the block-cipher
layer of its obfuscation, under the context's current key; nothing else changes (R215, R218). -/
def Obligations.CsEncryptWritesTheFrame : Prop :=
  (∀ c, c < 16 → encode (.csEncrypt c) = BitVec.ofNat 32 (0x61 + 256 * c)) ∧
  ∀ (s : State) (c : Nat) (x : Context) (b : List Byte), s.Inv →
    s.ctx[c]? = some x → x.valid = true → s.base + s.len ≤ s.wp → b.length + 4 = s.len → s.pkt.Holds (s.base + 4) b →
      ReplacesRange (.csEncrypt c) s
        ((hdrBuild x.key x.ver b.length).toList ++ bcl s.cfg x.key (obfFwd s.cfg.obfATap b))

/-- `CS_DECRYPT` replaces the bytes of its range by the inverse obfuscation of their block-cipher layer, under the context's current
key; nothing else changes (R215, R220). -/
def Obligations.CsDecryptTransformsTheRange : Prop :=
  (∀ c, c < 16 → encode (.csDecrypt c) = BitVec.ofNat 32 (0x62 + 256 * c)) ∧
  ∀ (s : State) (c : Nat) (x : Context) (b : List Byte), s.Inv →
    s.ctx[c]? = some x → x.valid = true → s.base + s.len ≤ s.wp → b.length = s.len → s.pkt.Holds s.base b →
      ReplacesRange (.csDecrypt c) s (obfInv s.cfg.obfATap (bcl s.cfg x.key b))

/-- Encrypting a range under one context and decrypting its payload under a context with an equal key restores every byte of the
payload, whatever the bytes, the parameters and the versions; the header parses to the payload length modulo 2^16; every byte
outside the range stays (R221). -/
def Obligations.EncryptDecryptRoundTrip : Prop :=
  ∀ (s : State) (c d : Nat) (x y : Context) (c1 c2 : Command) (rest : List Command),
    s.Inv → c < 16 → d < 16 → s.ctx[c]? = some x → x.valid = true → s.ctx[d]? = some y → y.valid = true → y.key = x.key →
    s.inbox = c1 :: c2 :: rest → c1.cw = encode (.csEncrypt c) → c2.cw = encode (.csDecrypt d) →
    4 ≤ c1.arg1.toNat → c1.arg0.toNat + c1.arg1.toNat ≤ s.wp →
    c2.arg0.toNat = c1.arg0.toNat + 4 → c2.arg1.toNat + 4 = c1.arg1.toNat →
      ∃ s1 s2 m, step s = .next s1 ∧ step s1 = .next s2 ∧
        s2 = { s with
          pkt := m, inbox := rest,
          outbox := s.outbox ++ [okResponse s.fsr 0 0 [], okResponse s.fsr 0 0 []] } ∧
        (∀ a, a < c1.arg0.toNat ∨ c1.arg0.toNat + 4 ≤ a → m.readByte a = s.pkt.readByte a) ∧
        hdrGetLen ⟨m.readByte c1.arg0.toNat, m.readByte (c1.arg0.toNat + 1), m.readByte (c1.arg0.toNat + 2),
          m.readByte (c1.arg0.toNat + 3)⟩ = BitVec.ofNat 16 (c1.arg1.toNat - 4)

/-- `CS_SHUFFLE` replaces its context's key by the four bytes of `Shuffle` repeated four times and returns them, byte 0 lowest; `VER`
and `VALID` of the context, and everything else, stay (R242, R243). And what `Shuffle` is: from the initial accumulator, one round for
each of key bytes 0 to 3 (R235), each round the four updates in their order (R239) or the free update, then the accumulator packed
little-endian, rotated left by 3 and unpacked (R241). Updates, byte order, table and initial value are the spec's general knowledge
(notes/assumptions/9.md). -/
def Obligations.CsShuffleAdvancesTheKey : Prop :=
  (∀ c, c < 16 → encode (.csShuffle c) = BitVec.ofNat 32 (0x63 + 256 * c)) ∧
  (∀ (s : State) (c : Nat) (x : Context) (a : Bytes4), s.ctx[c]? = some x → x.valid = true → a = shuffle s.cfg x.key →
    exec (.csShuffle c) s =
      .next (({ s with ctx := s.ctx.set c ⟨⟨a, a, a, a⟩, x.ver, true⟩ } : State).answered
        (okResponse s.fsr ((a.b3 ++ a.b2 ++ a.b1 ++ a.b0).setWidth 64) 0 []))) ∧
  ∀ (p : Config.Params) (key : Bytes16), ∃ acc new : Nat → Bytes4, acc 0 = p.shufInit ∧ shuffle p key = acc 4 ∧
    ∀ i, i < 4 → ∃ (x tx : Byte) (v : Word32),
      x = [key.q0.b0, key.q0.b1, key.q0.b2, key.q0.b3].getD i 0 ∧ tx = p.shufTable[x.toNat] ∧
      (p.shufRound = .fourUpdates →
        (new i).b0 = (acc i).b0 + (p.shufTable[(acc i).b1.toNat] - x) ∧
        (new i).b1 = (acc i).b1 - ((acc i).b2 ^^^ tx) ∧
        (new i).b2 = (acc i).b2 ^^^ (p.shufTable[(acc i).b3.toNat] + x) ∧
        (new i).b3 = (acc i).b3 - (new i).b0 + tx) ∧
      (p.shufRound = .uninterpreted → new i = Config.openShuffleRound p.shufTable (acc i) x) ∧
      v = ((new i).b3 ++ (new i).b2 ++ (new i).b1 ++ (new i).b0).rotateLeft 3 ∧
      acc (i + 1) = ⟨v.extractLsb' 0 8, v.extractLsb' 8 8, v.extractLsb' 16 8, v.extractLsb' 24 8⟩

/-- `CS_GETKEY` returns the 16 key bytes and `CS_GETVER` the decoded version and the version code; neither changes anything (R222,
R223). -/
def Obligations.ContextReadsReportTheContext : Prop :=
  (∀ c, c < 16 → encode (.csGetkey c) = BitVec.ofNat 32 (0x64 + 256 * c)) ∧
  (∀ c, c < 16 → encode (.csGetver c) = BitVec.ofNat 32 (0x65 + 256 * c)) ∧
  ∀ (s : State) (c : Nat) (k0 k1 k2 k3 : Bytes4) (ver : BitVec 16), s.ctx[c]? = some ⟨⟨k0, k1, k2, k3⟩, ver, true⟩ →
    exec (.csGetkey c) s = .next (s.answered (okResponse s.fsr 0 0
      [k0.b0, k0.b1, k0.b2, k0.b3, k1.b0, k1.b1, k1.b2, k1.b3, k2.b0, k2.b1, k2.b2, k2.b3, k3.b0, k3.b1, k3.b2, k3.b3])) ∧
    exec (.csGetver c) s = .next (s.answered (okResponse s.fsr ((decodeVersion ver).setWidth 64) (ver.setWidth 64) []))

/-! ## Faults of the context and range operands -/

/-- Every context-using command that names a context the block does not hold ends with `BAD_CONTEXT`, whatever its other operands
(R257, R264). -/
def Obligations.AbsentContextIsReported : Prop :=
  ∀ (s : State) (c : Nat), s.ContextsCounted → c < 16 → s.ctx.length ≤ c →
    ∀ i ∈ [Instr.bclApply c, .hdrBuild c, .csInit c, .csEncrypt c, .csDecrypt c, .csShuffle c, .csGetkey c, .csGetver c],
      exec i s = .next (s.faulted 1 (BitVec.ofNat 64 c) (BitVec.ofNat 64 s.ctx.length))

/-- Every context-using command but `CS_INIT` that names a context no `CS_INIT` has written ends with `CONTEXT_UNINIT`, whatever its
other operands (R258, R264). -/
def Obligations.UnconstructedContextIsReported : Prop :=
  ∀ (s : State) (c : Nat) (x : Context), c < 16 → s.ctx[c]? = some x → x.valid = false →
    ∀ i ∈ [Instr.bclApply c, .hdrBuild c, .csEncrypt c, .csDecrypt c, .csShuffle c, .csGetkey c, .csGetver c],
      exec i s = .next (s.faulted 2 (BitVec.ofNat 64 c) 0)

/-- On a valid context a range that does not lie in the Packet is `RANGE_ERROR`, before any length check; within the Packet a range
below 4 bytes is `SHORT_BUFFER` for `CS_ENCRYPT` (R259, R260, R264). No other command, and no `CS_ENCRYPT` of 4 bytes or more, ends
with `SHORT_BUFFER` (R260). -/
def Obligations.BadRangesAreReportedInOrder : Prop :=
  (∀ (s : State) (c : Nat) (x : Context), s.ctx[c]? = some x → x.valid = true →
    (s.wp < s.arg0.toNat + s.arg1.toNat →
      ∀ i ∈ [Instr.bclApply c, .csEncrypt c, .csDecrypt c], exec i s = .next (s.faulted 3 s.arg0 s.arg1)) ∧
    (s.arg0.toNat + s.arg1.toNat ≤ s.wp → s.arg1.toNat < 4 →
      exec (.csEncrypt c) s = .next (s.faulted 4 s.arg1 4))) ∧
  ∀ (i : Instr) (s t : State) (r : Response), exec i s = .next t → t.outbox = s.outbox ++ [r] → r.status = 0x84 →
    s.arg1.toNat < 4 ∧ ∃ c, i = .csEncrypt c

end
end

