-- ==== Sys2Proof/Laws/BlockCipher.lean ====
section
/-! SUPPORT. The laws of the default block cipher's key schedule and keystream (spec/45_aes256_ofb.md R189, R190): the recurrence the
scheduled words meet, and how many blocks output feedback yields. -/

namespace Sys2Proof.Machine

/-- The round constant after `k` words from word `i` on. -/
def rcAfter (i : Nat) : Nat → Byte → Byte
  | 0, rc => rc
  | k + 1, rc => rcAfter (i + 1) k (nextRc i rc)

theorem length_scheduleFrom (n i : Nat) (rc : Byte) (window : List Bytes4) : (scheduleFrom n i rc window).length = n := by
  induction n generalizing i rc window with
  | zero => rfl
  | succ n ih => simp [scheduleFrom, ih]

/-- A scheduled word is the word eight before it, XORed with the term of the word before it (R189). -/
theorem scheduleFrom_recurrence (n i k : Nat) (rc : Byte) (window : List Bytes4) (hlen : window.length = 8) (hk : k < n) :
    (window ++ scheduleFrom n i rc window).getD (k + 8) default =
      xor4 ((window ++ scheduleFrom n i rc window).getD k default)
        (scheduleTerm (i + k) (rcAfter i k rc) ((window ++ scheduleFrom n i rc window).getD (k + 7) default)) := by
  induction n generalizing i k rc window with
  | zero => omega
  | succ n ih =>
    match window, hlen with
    | [a, b, c, d, e, f, g, h], _ =>
      cases k with
      | zero => rfl
      | succ k =>
        have := ih (i + 1) k (nextRc i rc) ([b, c, d, e, f, g, h] ++ [xor4 a (scheduleTerm i rc h)]) rfl (by omega)
        rw [show i + (k + 1) = i + 1 + k by omega]
        exact this

theorem length_ofbBlocks (keys : List Bytes16) (n : Nat) (o : Bytes16) : (ofbBlocks keys n o).length = 16 * n := by
  induction n generalizing o with
  | zero => rfl
  | succ n ih => simp [ofbBlocks, ih, Bytes16.toList, Bytes4.toList]; omega

end Sys2Proof.Machine
end

