-- ==== Sys2Proof/Laws/Checksum.lean ====
section
/-! SUPPORT. The laws of the checksum's inner steps (spec/42_checksum.md R141): the steps of a byte may be taken from either end
and in parts, and what a machine's parameters make of its checksum. -/

namespace Sys2Proof.Machine

/-- The inner step first or last is the same. -/
theorem crcBits_crcBit (cv : Config.CrcConvention) (n : Nat) (c : Word32) :
    crcBits cv n (crcBit cv c) = crcBit cv (crcBits cv n c) := by
  induction n generalizing c with
  | zero => rfl
  | succ n ih => exact ih (crcBit cv c)

theorem crcBits_add (cv : Config.CrcConvention) (m n : Nat) (c : Word32) :
    crcBits cv (m + n) c = crcBits cv n (crcBits cv m c) := by
  induction m generalizing c with
  | zero => rw [Nat.zero_add]; rfl
  | succ m ih => rw [Nat.succ_add]; exact ih (crcBit cv c)

/-- A zero register stays zero, so an inner step adds nothing of its own. -/
@[simp] theorem crcBits_zero (cv : Config.CrcConvention) (n : Nat) : crcBits cv n 0 = 0 := by
  induction n with
  | zero => rfl
  | succ n ih =>
    have h : crcBit cv 0 = 0 := by unfold crcBit; cases cv.order <;> simp
    simp only [crcBits, h, ih]

theorem crc32_of_convention (p : Config.Params) (cv : Config.CrcConvention) (seed : Word32) (data : List Byte)
    (h : p.crc = .convention cv) : crc32 p seed data = crcOver cv seed data := by
  unfold crc32; rw [h]

theorem params_legal_iff (p : Config.Params) :
    p.Legal ↔ Config.capacityLegalB p.pktCap = true ∧ p.crc.legalB = true := by
  simp [Config.Params.Legal, Config.Params.legalB]

end Sys2Proof.Machine
end

