-- ==== Sys2Proof/Laws/Memory.lean ====
section
/-! SUPPORT. The laws of the packet memory (spec/20_memory.md R52): a read after a write, what a write leaves alone, and the
canonical form and the capacity every write keeps. -/

namespace Sys2Proof.Machine

theorem Memory.wfFrom_mono {lo lo' : Nat} (h : lo' ≤ lo) : ∀ {m : Memory}, m.wfFrom lo = true → m.wfFrom lo' = true
  | [], _ => rfl
  | (a, v) :: m, hm => by
    simp only [Memory.wfFrom, Bool.and_eq_true, decide_eq_true_eq] at hm ⊢
    exact ⟨⟨by omega, hm.1.2⟩, hm.2⟩

/-- Below its first address a canonical memory reads as an unlisted address. -/
theorem Memory.readByte_of_lt {lo a : Nat} : ∀ {m : Memory}, m.wfFrom lo = true → a < lo → m.readByte a = unlistedByte
  | [], _, _ => rfl
  | (b, w) :: m, hm, ha => by
    simp only [Memory.wfFrom, Bool.and_eq_true, decide_eq_true_eq] at hm
    have h1 : a ≠ b := by omega
    have h2 : a < b := by omega
    simp [Memory.readByte, h1, h2]

theorem Memory.wfFrom_writeByte {lo a : Nat} (v : Byte) (ha : lo ≤ a) :
    ∀ {m : Memory}, m.wfFrom lo = true → (m.writeByte a v).wfFrom lo = true
  | [], _ => by
    by_cases hv : v = unlistedByte <;> simp [Memory.writeByte, Memory.wfFrom, hv, ha]
  | (b, w) :: m, hm => by
    simp only [Memory.wfFrom, Bool.and_eq_true, decide_eq_true_eq] at hm
    obtain ⟨⟨hb, hw⟩, hm⟩ := hm
    simp only [Memory.writeByte]
    split
    · rename_i hlt
      split
      · simp [Memory.wfFrom, hb, hw, hm]
      · rename_i hv
        have : a + 1 ≤ b := hlt
        simp [Memory.wfFrom, ha, hv, hw, hm, this]
    · split
      · rename_i heq
        subst heq
        split
        · exact Memory.wfFrom_mono (by omega) hm
        · rename_i hv
          simp [Memory.wfFrom, ha, hv, hm]
      · have hab : b + 1 ≤ a := by omega
        simp [Memory.wfFrom, hb, hw, Memory.wfFrom_writeByte v hab hm]

theorem Memory.wf_writeByte {m : Memory} (a : Nat) (v : Byte) (h : m.wf = true) : (m.writeByte a v).wf = true :=
  Memory.wfFrom_writeByte v (Nat.zero_le a) h

theorem Memory.wf_writeBytes {m : Memory} (a : Nat) (b : List Byte) (h : m.wf = true) : (m.writeBytes a b).wf = true := by
  induction b generalizing m a with
  | nil => exact h
  | cons v vs ih => exact ih (a + 1) (Memory.wf_writeByte a v h)

theorem Memory.wf_nil : Memory.wf [] = true := rfl

theorem Memory.readByte_writeByte_same {lo a : Nat} (v : Byte) :
    ∀ {m : Memory}, m.wfFrom lo = true → (m.writeByte a v).readByte a = v
  | [], _ => by
    by_cases hv : v = unlistedByte <;> simp [Memory.writeByte, Memory.readByte, hv]
  | (b, w) :: m, hm => by
    simp only [Memory.wfFrom, Bool.and_eq_true, decide_eq_true_eq] at hm
    simp only [Memory.writeByte]
    split
    · rename_i hlt
      have hne : a ≠ b := by omega
      split
      · rename_i hv
        simp [Memory.readByte, hne, hlt, hv]
      · simp [Memory.readByte]
    · split
      · rename_i heq
        subst heq
        split
        · rename_i hv
          rw [Memory.readByte_of_lt hm.2 (Nat.lt_succ_self a), hv]
        · simp [Memory.readByte]
      · rename_i hlt hne
        simp [Memory.readByte, hne, hlt, Memory.readByte_writeByte_same v hm.2]

theorem Memory.readByte_writeByte_ne {lo a a' : Nat} (v : Byte) (h : a' ≠ a) :
    ∀ {m : Memory}, m.wfFrom lo = true → (m.writeByte a v).readByte a' = m.readByte a'
  | [], _ => by
    by_cases hv : v = unlistedByte <;> simp [Memory.writeByte, Memory.readByte, hv, h]
  | (b, w) :: m, hm => by
    simp only [Memory.wfFrom, Bool.and_eq_true, decide_eq_true_eq] at hm
    simp only [Memory.writeByte]
    split
    · rename_i hlt
      split
      · rfl
      · by_cases h1 : a' < a
        · have h2 : a' ≠ b := by omega
          have h3 : a' < b := by omega
          simp [Memory.readByte, h, h1, h2, h3]
        · simp [Memory.readByte, h, h1]
    · split
      · rename_i heq
        subst heq
        split
        · by_cases h1 : a' < a
          · rw [Memory.readByte_of_lt hm.2 (by omega)]
            simp [Memory.readByte, h, h1]
          · simp [Memory.readByte, h, h1]
        · simp [Memory.readByte, h]
      · by_cases h1 : a' = b
        · simp [Memory.readByte, h1]
        · simp only [Memory.readByte, h1, if_false]
          rw [Memory.readByte_writeByte_ne v h hm.2]

/-- A block write leaves every address outside the block alone. -/
theorem Memory.readByte_writeBytes_outside {m : Memory} (lo : Nat) (b : List Byte) (a : Nat) (hm : m.wf = true)
    (h : a < lo ∨ lo + b.length ≤ a) : (m.writeBytes lo b).readByte a = m.readByte a := by
  induction b generalizing m lo with
  | nil => rfl
  | cons v vs ih =>
    simp only [List.length_cons] at h
    rw [Memory.writeBytes, ih (lo + 1) (Memory.wf_writeByte lo v hm) (by omega)]
    exact Memory.readByte_writeByte_ne v (by omega) hm

/-- A block write puts its bytes where it says. -/
theorem Memory.readByte_writeBytes_inside {m : Memory} (lo : Nat) (b : List Byte) (k : Nat) (hm : m.wf = true)
    (hk : k < b.length) : (m.writeBytes lo b).readByte (lo + k) = b[k] := by
  induction b generalizing m lo k with
  | nil => simp at hk
  | cons v vs ih =>
    rw [Memory.writeBytes]
    cases k with
    | zero =>
      rw [Memory.readByte_writeBytes_outside (lo + 1) vs (lo + 0) (Memory.wf_writeByte lo v hm) (by omega)]
      exact Memory.readByte_writeByte_same v hm
    | succ k =>
      have h := ih (lo + 1) k (Memory.wf_writeByte lo v hm) (by simpa using hk)
      rw [show lo + (k + 1) = lo + 1 + k by omega, h]
      rfl

@[simp] theorem Memory.length_readBytes (m : Memory) (a n : Nat) : (m.readBytes a n).length = n := by
  induction n generalizing a with
  | zero => rfl
  | succ n ih => simp [Memory.readBytes, ih]

theorem Memory.getElem_readBytes (m : Memory) (a n k : Nat) (h : k < (m.readBytes a n).length) :
    (m.readBytes a n)[k] = m.readByte (a + k) := by
  induction n generalizing a k with
  | zero => simp at h
  | succ n ih =>
    cases k with
    | zero => simp [Memory.readBytes]
    | succ k =>
      simp only [Memory.readBytes, List.getElem_cons_succ]
      rw [ih (a + 1) k (by simpa [Memory.readBytes] using h), show a + 1 + k = a + (k + 1) by omega]

/-- Two memories that agree on a block read the same there. -/
theorem Memory.readBytes_congr {m m' : Memory} (a n : Nat) (h : ∀ k, k < n → m.readByte (a + k) = m'.readByte (a + k)) :
    m.readBytes a n = m'.readBytes a n := by
  apply List.ext_getElem (by simp)
  intro k h1 h2
  rw [Memory.getElem_readBytes, Memory.getElem_readBytes]
  exact h k (by simpa using h1)

/-- Reading a block back gives what was written. -/
theorem Memory.readBytes_writeBytes {m : Memory} (lo : Nat) (b : List Byte) (hm : m.wf = true) :
    (m.writeBytes lo b).readBytes lo b.length = b := by
  apply List.ext_getElem (by simp)
  intro k h1 h2
  rw [Memory.getElem_readBytes, Memory.readByte_writeBytes_inside lo b k hm h2]

theorem Memory.below_writeByte {n a : Nat} (v : Byte) (ha : a < n) :
    ∀ {m : Memory}, m.below n = true → (m.writeByte a v).below n = true
  | [], _ => by
    by_cases hv : v = unlistedByte <;> simp [Memory.writeByte, Memory.below, hv, ha]
  | (b, w) :: m, hm => by
    have hm' : b < n ∧ Memory.below n m = true := by simpa [Memory.below] using hm
    simp only [Memory.writeByte]
    split
    · split
      · exact hm
      · simpa [Memory.below, ha] using hm
    · split
      · split
        · exact hm'.2
        · simpa [Memory.below, ha] using hm'.2
      · have := Memory.below_writeByte v ha hm'.2
        simp only [Memory.below, List.all_cons, Bool.and_eq_true, decide_eq_true_eq] at this ⊢
        exact ⟨hm'.1, this⟩

/-- A block write below a bound keeps the memory below it. -/
theorem Memory.below_writeBytes {m : Memory} {n : Nat} (lo : Nat) (b : List Byte) (h : lo + b.length ≤ n)
    (hm : m.below n = true) : (m.writeBytes lo b).below n = true := by
  induction b generalizing m lo with
  | nil => exact hm
  | cons v vs ih =>
    simp only [List.length_cons] at h
    exact ih (lo + 1) (by omega) (Memory.below_writeByte v (by omega) hm)

end Sys2Proof.Machine
end

