-- ==== Sys2Proof/Laws/Operands.lean ====
section
/-! SUPPORT. The laws of the number forms (spec/00_scope.md R11, R12). -/

namespace Sys2Proof.Machine

@[simp] theorem length_le (n v : Nat) : (le n v).length = n := by
  induction n generalizing v with
  | zero => rfl
  | succ n ih => simp [le, ih]

/-- `unle` inverts `le` modulo the width. -/
theorem unle_le (n v : Nat) : unle (le n v) = v % 2 ^ (8 * n) := by
  induction n generalizing v with
  | zero => simp [le, unle, Nat.mod_one]
  | succ n ih =>
    rw [le, unle, ih, show 8 * (n + 1) = 8 + 8 * n by omega, Nat.pow_add, Nat.mod_mul]
    simp

theorem unle_lt (b : List Byte) : unle b < 2 ^ (8 * b.length) := by
  induction b with
  | nil => simp [unle]
  | cons v vs ih =>
    rw [unle, List.length_cons, show 8 * (vs.length + 1) = 8 + 8 * vs.length by omega, Nat.pow_add]
    have := v.isLt
    omega

/-- A number that fits a field is what the field holds. -/
theorem fieldOfNat_of_lt {n : Nat} (h : n < 2 ^ 64) : fieldOfNat n = BitVec.ofNat 64 n := if_pos h

@[simp] theorem Bytes4.length_toList (w : Bytes4) : w.toList.length = 4 := rfl
@[simp] theorem Bytes16.length_toList (w : Bytes16) : w.toList.length = 16 := rfl

@[simp] theorem rep4_q0 (s : Bytes4) : (rep4 s).q0 = s := rfl

/-- Unpacking inverts packing (R77). -/
theorem unpackBytes4_packBytes4 (w : Bytes4) : unpackBytes4 (packBytes4 w) = w := by
  obtain ⟨b0, b1, b2, b3⟩ := w
  simp only [unpackBytes4, packBytes4, Bytes4.mk.injEq]
  refine ⟨?_, ?_, ?_, ?_⟩ <;>
  · ext i hi
    have h0 : i < 8 := hi
    interval_cases i <;> simp

end Sys2Proof.Machine
end

