-- ==== Sys2Proof/Laws/State.lean ====
section
/-! SUPPORT. One lemma per field per update of the state, each true by unfolding, so that no proof unfolds a record update. -/

namespace Sys2Proof.Machine

variable (s : State)

/-! ### `State.store` -/

@[simp] theorem State.store_pkt (a : Nat) (b : List Byte) : (s.store a b).pkt = s.pkt.writeBytes a b := rfl
@[simp] theorem State.store_wp (a : Nat) (b : List Byte) : (s.store a b).wp = s.wp := rfl
@[simp] theorem State.store_rp (a : Nat) (b : List Byte) : (s.store a b).rp = s.rp := rfl
@[simp] theorem State.store_rl (a : Nat) (b : List Byte) : (s.store a b).rl = s.rl := rfl
@[simp] theorem State.store_ctx (a : Nat) (b : List Byte) : (s.store a b).ctx = s.ctx := rfl
@[simp] theorem State.store_fsr (a : Nat) (b : List Byte) : (s.store a b).fsr = s.fsr := rfl
@[simp] theorem State.store_inbox (a : Nat) (b : List Byte) : (s.store a b).inbox = s.inbox := rfl
@[simp] theorem State.store_outbox (a : Nat) (b : List Byte) : (s.store a b).outbox = s.outbox := rfl
@[simp] theorem State.store_cfg (a : Nat) (b : List Byte) : (s.store a b).cfg = s.cfg := rfl

/-! ### `State.grow` -/

@[simp] theorem State.grow_pkt (b : List Byte) : (s.grow b).pkt = s.pkt.writeBytes s.wp b := rfl
@[simp] theorem State.grow_wp (b : List Byte) : (s.grow b).wp = s.wp + b.length := rfl
@[simp] theorem State.grow_rp (b : List Byte) : (s.grow b).rp = s.rp := rfl
@[simp] theorem State.grow_rl (b : List Byte) : (s.grow b).rl = s.rl := rfl
@[simp] theorem State.grow_ctx (b : List Byte) : (s.grow b).ctx = s.ctx := rfl
@[simp] theorem State.grow_fsr (b : List Byte) : (s.grow b).fsr = s.fsr := rfl
@[simp] theorem State.grow_inbox (b : List Byte) : (s.grow b).inbox = s.inbox := rfl
@[simp] theorem State.grow_outbox (b : List Byte) : (s.grow b).outbox = s.outbox := rfl
@[simp] theorem State.grow_cfg (b : List Byte) : (s.grow b).cfg = s.cfg := rfl

/-! ### `State.emptied` -/

@[simp] theorem State.emptied_pkt : s.emptied.pkt = s.pkt := rfl
@[simp] theorem State.emptied_wp : s.emptied.wp = 0 := rfl
@[simp] theorem State.emptied_rp : s.emptied.rp = 0 := rfl
@[simp] theorem State.emptied_rl : s.emptied.rl = 0 := rfl
@[simp] theorem State.emptied_ctx : s.emptied.ctx = s.ctx := rfl
@[simp] theorem State.emptied_fsr : s.emptied.fsr = s.fsr := rfl
@[simp] theorem State.emptied_inbox : s.emptied.inbox = s.inbox := rfl
@[simp] theorem State.emptied_outbox : s.emptied.outbox = s.outbox := rfl
@[simp] theorem State.emptied_cfg : s.emptied.cfg = s.cfg := rfl

/-! ### `State.setRp` -/

@[simp] theorem State.setRp_pkt (n : Nat) : (s.setRp n).pkt = s.pkt := rfl
@[simp] theorem State.setRp_wp (n : Nat) : (s.setRp n).wp = s.wp := rfl
@[simp] theorem State.setRp_rp (n : Nat) : (s.setRp n).rp = n := rfl
@[simp] theorem State.setRp_rl (n : Nat) : (s.setRp n).rl = s.rl := rfl
@[simp] theorem State.setRp_ctx (n : Nat) : (s.setRp n).ctx = s.ctx := rfl
@[simp] theorem State.setRp_fsr (n : Nat) : (s.setRp n).fsr = s.fsr := rfl
@[simp] theorem State.setRp_inbox (n : Nat) : (s.setRp n).inbox = s.inbox := rfl
@[simp] theorem State.setRp_outbox (n : Nat) : (s.setRp n).outbox = s.outbox := rfl
@[simp] theorem State.setRp_cfg (n : Nat) : (s.setRp n).cfg = s.cfg := rfl

/-! ### `State.openCursor` -/

@[simp] theorem State.openCursor_pkt (n : Nat) : (s.openCursor n).pkt = s.pkt := rfl
@[simp] theorem State.openCursor_wp (n : Nat) : (s.openCursor n).wp = s.wp := rfl
@[simp] theorem State.openCursor_rp (n : Nat) : (s.openCursor n).rp = n := rfl
@[simp] theorem State.openCursor_rl (n : Nat) : (s.openCursor n).rl = s.wp := rfl
@[simp] theorem State.openCursor_ctx (n : Nat) : (s.openCursor n).ctx = s.ctx := rfl
@[simp] theorem State.openCursor_fsr (n : Nat) : (s.openCursor n).fsr = s.fsr := rfl
@[simp] theorem State.openCursor_inbox (n : Nat) : (s.openCursor n).inbox = s.inbox := rfl
@[simp] theorem State.openCursor_outbox (n : Nat) : (s.openCursor n).outbox = s.outbox := rfl
@[simp] theorem State.openCursor_cfg (n : Nat) : (s.openCursor n).cfg = s.cfg := rfl

/-! ### `State.setContext` -/

@[simp] theorem State.setContext_pkt (c : Nat) (x : Context) : (s.setContext c x).pkt = s.pkt := rfl
@[simp] theorem State.setContext_wp (c : Nat) (x : Context) : (s.setContext c x).wp = s.wp := rfl
@[simp] theorem State.setContext_rp (c : Nat) (x : Context) : (s.setContext c x).rp = s.rp := rfl
@[simp] theorem State.setContext_rl (c : Nat) (x : Context) : (s.setContext c x).rl = s.rl := rfl
@[simp] theorem State.setContext_ctx (c : Nat) (x : Context) : (s.setContext c x).ctx = s.ctx.set c x := rfl
@[simp] theorem State.setContext_fsr (c : Nat) (x : Context) : (s.setContext c x).fsr = s.fsr := rfl
@[simp] theorem State.setContext_inbox (c : Nat) (x : Context) : (s.setContext c x).inbox = s.inbox := rfl
@[simp] theorem State.setContext_outbox (c : Nat) (x : Context) : (s.setContext c x).outbox = s.outbox := rfl
@[simp] theorem State.setContext_cfg (c : Nat) (x : Context) : (s.setContext c x).cfg = s.cfg := rfl

/-! ### `State.stick` -/

@[simp] theorem State.stick_pkt (k : Cause) : (s.stick k).pkt = s.pkt := rfl
@[simp] theorem State.stick_wp (k : Cause) : (s.stick k).wp = s.wp := rfl
@[simp] theorem State.stick_rp (k : Cause) : (s.stick k).rp = s.rp := rfl
@[simp] theorem State.stick_rl (k : Cause) : (s.stick k).rl = s.rl := rfl
@[simp] theorem State.stick_ctx (k : Cause) : (s.stick k).ctx = s.ctx := rfl
@[simp] theorem State.stick_fsr (k : Cause) : (s.stick k).fsr = setSticky s.fsr k := rfl
@[simp] theorem State.stick_inbox (k : Cause) : (s.stick k).inbox = s.inbox := rfl
@[simp] theorem State.stick_outbox (k : Cause) : (s.stick k).outbox = s.outbox := rfl
@[simp] theorem State.stick_cfg (k : Cause) : (s.stick k).cfg = s.cfg := rfl

/-! ### `State.respond` -/

@[simp] theorem State.respond_pkt (st : BitVec 8) (i0 i1 r0 r1 : Field) (d : List Byte) : (s.respond st i0 i1 r0 r1 d).pkt = s.pkt := rfl
@[simp] theorem State.respond_wp (st : BitVec 8) (i0 i1 r0 r1 : Field) (d : List Byte) : (s.respond st i0 i1 r0 r1 d).wp = s.wp := rfl
@[simp] theorem State.respond_rp (st : BitVec 8) (i0 i1 r0 r1 : Field) (d : List Byte) : (s.respond st i0 i1 r0 r1 d).rp = s.rp := rfl
@[simp] theorem State.respond_rl (st : BitVec 8) (i0 i1 r0 r1 : Field) (d : List Byte) : (s.respond st i0 i1 r0 r1 d).rl = s.rl := rfl
@[simp] theorem State.respond_ctx (st : BitVec 8) (i0 i1 r0 r1 : Field) (d : List Byte) : (s.respond st i0 i1 r0 r1 d).ctx = s.ctx := rfl
@[simp] theorem State.respond_fsr (st : BitVec 8) (i0 i1 r0 r1 : Field) (d : List Byte) : (s.respond st i0 i1 r0 r1 d).fsr = s.fsr := rfl
@[simp] theorem State.respond_inbox (st : BitVec 8) (i0 i1 r0 r1 : Field) (d : List Byte) : (s.respond st i0 i1 r0 r1 d).inbox = s.inbox.tail := rfl
@[simp] theorem State.respond_outbox (st : BitVec 8) (i0 i1 r0 r1 : Field) (d : List Byte) : (s.respond st i0 i1 r0 r1 d).outbox = s.outbox ++ [⟨st, i0, i1, r0, r1, d, s.fsr⟩] := rfl
@[simp] theorem State.respond_cfg (st : BitVec 8) (i0 i1 r0 r1 : Field) (d : List Byte) : (s.respond st i0 i1 r0 r1 d).cfg = s.cfg := rfl

/-! ### `State.okWith` -/

@[simp] theorem State.okWith_pkt (r0 r1 : Field) (d : List Byte) : (s.okWith r0 r1 d).pkt = s.pkt := rfl
@[simp] theorem State.okWith_wp (r0 r1 : Field) (d : List Byte) : (s.okWith r0 r1 d).wp = s.wp := rfl
@[simp] theorem State.okWith_rp (r0 r1 : Field) (d : List Byte) : (s.okWith r0 r1 d).rp = s.rp := rfl
@[simp] theorem State.okWith_rl (r0 r1 : Field) (d : List Byte) : (s.okWith r0 r1 d).rl = s.rl := rfl
@[simp] theorem State.okWith_ctx (r0 r1 : Field) (d : List Byte) : (s.okWith r0 r1 d).ctx = s.ctx := rfl
@[simp] theorem State.okWith_fsr (r0 r1 : Field) (d : List Byte) : (s.okWith r0 r1 d).fsr = s.fsr := rfl
@[simp] theorem State.okWith_inbox (r0 r1 : Field) (d : List Byte) : (s.okWith r0 r1 d).inbox = s.inbox.tail := rfl
@[simp] theorem State.okWith_outbox (r0 r1 : Field) (d : List Byte) : (s.okWith r0 r1 d).outbox = s.outbox ++ [⟨statusOk, 0, 0, r0, r1, d, s.fsr⟩] := rfl
@[simp] theorem State.okWith_cfg (r0 r1 : Field) (d : List Byte) : (s.okWith r0 r1 d).cfg = s.cfg := rfl

/-! ### `State.ok` -/

@[simp] theorem State.ok_pkt : s.ok.pkt = s.pkt := rfl
@[simp] theorem State.ok_wp : s.ok.wp = s.wp := rfl
@[simp] theorem State.ok_rp : s.ok.rp = s.rp := rfl
@[simp] theorem State.ok_rl : s.ok.rl = s.rl := rfl
@[simp] theorem State.ok_ctx : s.ok.ctx = s.ctx := rfl
@[simp] theorem State.ok_fsr : s.ok.fsr = s.fsr := rfl
@[simp] theorem State.ok_inbox : s.ok.inbox = s.inbox.tail := rfl
@[simp] theorem State.ok_outbox : s.ok.outbox = s.outbox ++ [⟨statusOk, 0, 0, 0, 0, [], s.fsr⟩] := rfl
@[simp] theorem State.ok_cfg : s.ok.cfg = s.cfg := rfl

/-! ### `State.endOfData` -/

@[simp] theorem State.endOfData_pkt (m n : Nat) : (s.endOfData m n).pkt = s.pkt := rfl
@[simp] theorem State.endOfData_wp (m n : Nat) : (s.endOfData m n).wp = s.wp := rfl
@[simp] theorem State.endOfData_rp (m n : Nat) : (s.endOfData m n).rp = s.rp := rfl
@[simp] theorem State.endOfData_rl (m n : Nat) : (s.endOfData m n).rl = s.rl := rfl
@[simp] theorem State.endOfData_ctx (m n : Nat) : (s.endOfData m n).ctx = s.ctx := rfl
@[simp] theorem State.endOfData_fsr (m n : Nat) : (s.endOfData m n).fsr = s.fsr := rfl
@[simp] theorem State.endOfData_inbox (m n : Nat) : (s.endOfData m n).inbox = s.inbox.tail := rfl
@[simp] theorem State.endOfData_outbox (m n : Nat) : (s.endOfData m n).outbox = s.outbox ++ [⟨statusEndOfData, fieldOfNat m, fieldOfNat n, 0, 0, [], s.fsr⟩] := rfl
@[simp] theorem State.endOfData_cfg (m n : Nat) : (s.endOfData m n).cfg = s.cfg := rfl

/-! ### `State.raise` -/

@[simp] theorem State.raise_pkt (k : Cause) (i0 i1 : Field) : (s.raise k i0 i1).pkt = s.pkt := rfl
@[simp] theorem State.raise_wp (k : Cause) (i0 i1 : Field) : (s.raise k i0 i1).wp = s.wp := rfl
@[simp] theorem State.raise_rp (k : Cause) (i0 i1 : Field) : (s.raise k i0 i1).rp = s.rp := rfl
@[simp] theorem State.raise_rl (k : Cause) (i0 i1 : Field) : (s.raise k i0 i1).rl = s.rl := rfl
@[simp] theorem State.raise_ctx (k : Cause) (i0 i1 : Field) : (s.raise k i0 i1).ctx = s.ctx := rfl
@[simp] theorem State.raise_fsr (k : Cause) (i0 i1 : Field) : (s.raise k i0 i1).fsr = setSticky s.fsr k := rfl
@[simp] theorem State.raise_inbox (k : Cause) (i0 i1 : Field) : (s.raise k i0 i1).inbox = s.inbox.tail := rfl
@[simp] theorem State.raise_outbox (k : Cause) (i0 i1 : Field) : (s.raise k i0 i1).outbox = s.outbox ++ [⟨k.status, i0, i1, 0, 0, [], setSticky s.fsr k⟩] := rfl
@[simp] theorem State.raise_cfg (k : Cause) (i0 i1 : Field) : (s.raise k i0 i1).cfg = s.cfg := rfl

/-! ### What the operand of a command is after an update that leaves the issued commands -/

@[simp] theorem State.store_command (a : Nat) (b : List Byte) : (s.store a b).command = s.command := rfl
@[simp] theorem State.setRp_command (n : Nat) : (s.setRp n).command = s.command := rfl
@[simp] theorem State.stick_command (k : Cause) : (s.stick k).command = s.command := rfl
@[simp] theorem State.setContext_command (c : Nat) (x : Context) : (s.setContext c x).command = s.command := rfl

theorem State.command_of_inbox (cmd : Command) (rest : List Command) (h : s.inbox = cmd :: rest) :
    s.command = cmd := by
  simp [State.command, h]

/-! ### The reset state -/

@[simp] theorem State.resetWith_pkt (p : Config.Params) (n : Nat) : (State.resetWith p n).pkt = [] := rfl
@[simp] theorem State.resetWith_wp (p : Config.Params) (n : Nat) : (State.resetWith p n).wp = 0 := rfl
@[simp] theorem State.resetWith_rp (p : Config.Params) (n : Nat) : (State.resetWith p n).rp = 0 := rfl
@[simp] theorem State.resetWith_rl (p : Config.Params) (n : Nat) : (State.resetWith p n).rl = 0 := rfl
@[simp] theorem State.resetWith_ctx (p : Config.Params) (n : Nat) :
    (State.resetWith p n).ctx = List.replicate n Context.reset := rfl
@[simp] theorem State.resetWith_fsr (p : Config.Params) (n : Nat) : (State.resetWith p n).fsr = 0 := rfl
@[simp] theorem State.resetWith_inbox (p : Config.Params) (n : Nat) : (State.resetWith p n).inbox = [] := rfl
@[simp] theorem State.resetWith_outbox (p : Config.Params) (n : Nat) : (State.resetWith p n).outbox = [] := rfl
@[simp] theorem State.resetWith_cfg (p : Config.Params) (n : Nat) : (State.resetWith p n).cfg = p := rfl

end Sys2Proof.Machine
end

