-- ==== Sys2Proof/Laws/Ops.lean ====
section
/-! SUPPORT. For each shared operation one lemma that says once everything it can do, and the equations of its cases. -/

namespace Sys2Proof.Machine

variable (s : State)

/-- `Append`: refused whole, or the bytes added at the Packet's end (R101). -/
theorem State.append_cases (b : List Byte) :
    (s.overCapacity (s.wp + b.length) = true ∧
      s.append b = s.raise .capacityExceeded (fieldOfNat (s.wp + b.length)) s.capField) ∨
    (s.overCapacity (s.wp + b.length) = false ∧ s.append b = (s.grow b).ok) := by
  unfold State.append
  cases s.overCapacity (s.wp + b.length) <;> simp

/-- A range operand: refused, or the command goes on (R78). -/
theorem State.withRange_cases (k : State) :
    (s.wp < s.base + s.len ∧ s.withRange k = s.raise .rangeError s.arg0 s.arg1) ∨
    (s.base + s.len ≤ s.wp ∧ s.withRange k = k) := by
  unfold State.withRange State.rangeBad
  by_cases h : s.wp < s.base + s.len
  · exact .inl ⟨h, by simp [h]⟩
  · exact .inr ⟨by omega, by simp [h]⟩

/-- An in-place transform: refused, or the range replaced (R157). -/
theorem State.transformRange_cases (f : List Byte → List Byte) :
    (s.wp < s.base + s.len ∧ s.transformRange f = s.raise .rangeError s.arg0 s.arg1) ∨
    (s.base + s.len ≤ s.wp ∧ s.transformRange f = (s.store s.base (f s.rangeBytes)).ok) :=
  s.withRange_cases _

/-- A context operand: absent, or the command goes on with the context (R257). -/
theorem State.withContext_cases (c : Nat) (k : Context → State) :
    (s.ctx[c]? = none ∧ s.withContext c k = s.raise .badContext (fieldOfNat c) (fieldOfNat s.nctx)) ∨
    (∃ x, s.ctx[c]? = some x ∧ s.withContext c k = k x) := by
  unfold State.withContext
  cases h : s.ctx[c]? with
  | none => exact .inl ⟨rfl, rfl⟩
  | some x => exact .inr ⟨x, rfl, rfl⟩

/-- A context operand that must be valid: absent, not constructed, or the command goes on with the context (R257, R258). -/
theorem State.withValidContext_cases (c : Nat) (k : Context → State) :
    (s.ctx[c]? = none ∧ s.withValidContext c k = s.raise .badContext (fieldOfNat c) (fieldOfNat s.nctx)) ∨
    (∃ x, s.ctx[c]? = some x ∧ x.valid = false ∧
      s.withValidContext c k = s.raise .contextUninit (fieldOfNat c) 0) ∨
    (∃ x, s.ctx[c]? = some x ∧ x.valid = true ∧ s.withValidContext c k = k x) := by
  unfold State.withValidContext
  obtain ⟨hc, h⟩ | ⟨x, hc, h⟩ := s.withContext_cases c fun x =>
    if x.valid then k x else s.raise .contextUninit (fieldOfNat c) 0
  · exact .inl ⟨hc, h⟩
  · right
    cases hv : x.valid with
    | false => exact .inl ⟨x, hc, hv, h.trans (by simp [hv])⟩
    | true => exact .inr ⟨x, hc, hv, h.trans (by simp [hv])⟩

/-- A fixed-width cursor read: too few bytes, or the value with the cursor advanced (R122). -/
theorem State.readFixed_cases (n : Nat) (k : Nat → State → State) :
    (s.avail < n ∧ s.readFixed n k = s.endOfData n s.avail) ∨
    (n ≤ s.avail ∧ s.readFixed n k = k (unle (s.pkt.readBytes s.rp n)) (s.setRp (s.rp + n))) := by
  unfold State.readFixed
  by_cases h : s.avail < n
  · exact .inl ⟨h, if_pos h⟩
  · exact .inr ⟨by omega, if_neg h⟩

/-- A length-prefixed cursor read: header failure, payload failure with the cursor after the length field, or the descriptor with the
cursor past the item (R129, R130). -/
theorem State.readPrefixed_cases (k : Nat → Nat → State → State) :
    (s.avail < 2 ∧ s.readPrefixed k = s.endOfData 2 s.avail) ∨
    (2 ≤ s.avail ∧ s.rl - (s.rp + 2) < unle (s.pkt.readBytes s.rp 2) ∧
      s.readPrefixed k =
        (s.setRp (s.rp + 2)).endOfData (unle (s.pkt.readBytes s.rp 2)) (s.rl - (s.rp + 2))) ∨
    (2 ≤ s.avail ∧ unle (s.pkt.readBytes s.rp 2) ≤ s.rl - (s.rp + 2) ∧
      s.readPrefixed k =
        k (s.rp + 2) (unle (s.pkt.readBytes s.rp 2)) (s.setRp (s.rp + 2 + unle (s.pkt.readBytes s.rp 2)))) := by
  unfold State.readPrefixed
  obtain ⟨h, e⟩ | ⟨h, e⟩ := s.readFixed_cases 2 fun len s1 =>
    if s1.avail < len then s1.endOfData len s1.avail else k s1.rp len (s1.setRp (s1.rp + len))
  · exact .inl ⟨h, e⟩
  · right
    have ha : (s.setRp (s.rp + 2)).avail = s.rl - (s.rp + 2) := rfl
    by_cases h2 : s.rl - (s.rp + 2) < unle (s.pkt.readBytes s.rp 2)
    · exact .inl ⟨h, h2, by rw [e]; simp only [ha, h2, if_true]⟩
    · exact .inr ⟨h, by omega, by rw [e]; simp only [ha, h2, if_false]; rfl⟩

/-- A write to the packet memory keeps it canonical, whichever operation makes it. -/
theorem State.wf_store (a : Nat) (b : List Byte) (h : s.pkt.wf = true) : (s.store a b).pkt.wf = true :=
  Memory.wf_writeBytes a b h

theorem State.wf_grow (b : List Byte) (h : s.pkt.wf = true) : (s.grow b).pkt.wf = true :=
  Memory.wf_writeBytes s.wp b h

theorem State.wf_reset : State.reset.pkt.wf = true := rfl

/-- A store leaves every address outside it alone. -/
theorem State.readByte_store_outside (lo : Nat) (b : List Byte) (a : Nat) (hm : s.pkt.wf = true)
    (h : a < lo ∨ lo + b.length ≤ a) : (s.store lo b).pkt.readByte a = s.pkt.readByte a :=
  Memory.readByte_writeBytes_outside lo b a hm h

/-- A store puts its bytes where it says. -/
theorem State.readByte_store_inside (lo : Nat) (b : List Byte) (k : Nat) (hm : s.pkt.wf = true) (hk : k < b.length) :
    (s.store lo b).pkt.readByte (lo + k) = b[k] :=
  Memory.readByte_writeBytes_inside lo b k hm hk

/-- A valid context of the block is one whose number is below `NCTX`. -/
theorem State.ctx_isSome_iff (c : Nat) : (∃ x, s.ctx[c]? = some x) ↔ c < s.nctx := by
  unfold State.nctx
  constructor
  · rintro ⟨x, h⟩
    exact (List.getElem?_eq_some_iff.mp h).1
  · intro h
    exact ⟨s.ctx[c], List.getElem?_eq_getElem h⟩

end Sys2Proof.Machine
end

