-- ==== Sys2Proof/Laws/PerInstr.lean ====
section
/-! SUPPORT. A family of statements over every command: its command word selects the command's own row of the table (spec/30_encoding.md
R75) and has `RSV` 0. -/

namespace Sys2Proof.Laws

open Sys2Proof

/-- The number of the command's row in `opcodeTable`. -/
def EncodesItsRow.rowNumber : Instr → Nat
  | .pbNew => 0
  | .pbRaw => 1
  | .pbEnc1 _ => 2
  | .pbEnc2 _ => 3
  | .pbEnc4 _ => 4
  | .pbEnc8 _ => 5
  | .pbLpbuf => 6
  | .pbLpstr => 7
  | .pbDump => 8
  | .pbLen => 9
  | .pcOpen => 10
  | .pcDec1 _ => 11
  | .pcDec2 _ => 12
  | .pcDec4 _ => 13
  | .pcDec8 _ => 14
  | .pcLpbuf => 15
  | .pcLpstr => 16
  | .pcRemain => 17
  | .crc32 => 18
  | .obfFwd => 19
  | .obfInv => 20
  | .bclApply _ => 21
  | .hdrGetlen => 22
  | .hdrBuild _ => 23
  | .csInit _ => 24
  | .csEncrypt _ => 25
  | .csDecrypt _ => 26
  | .csShuffle _ => 27
  | .csGetkey _ => 28
  | .csGetver _ => 29

/-- The command word of a well-formed command selects the command's row and has no reserved bit set. -/
def EncodesItsRow.Statement (i : Instr) : Prop :=
  i.WellFormed →
    ((opcodeTable[EncodesItsRow.rowNumber i]?).map fun r => r.selects (encode i)) = some true ∧ rsvField (encode i) = 0

theorem EncodesItsRow.commandWord_context (opc : BitVec 8) (pattern : Word32)
    (h : ∀ c : Fin 16, commandWord opc c false &&& 0xFFFFF0FF = pattern ∧ rsvField (commandWord opc c false) = 0)
    (c : Nat) (hc : contextFits c = true) :
    commandWord opc c false &&& 0xFFFFF0FF = pattern ∧ rsvField (commandWord opc c false) = 0 :=
  h ⟨c, by simpa [contextFits] using hc⟩

theorem EncodesItsRow.pbNew : EncodesItsRow.Statement .pbNew := fun _ => by decide +kernel
theorem EncodesItsRow.pbRaw : EncodesItsRow.Statement .pbRaw := fun _ => by decide +kernel
theorem EncodesItsRow.pbEnc1 (sgn : Bool) : EncodesItsRow.Statement (.pbEnc1 sgn) := fun _ => by
  cases sgn <;> decide +kernel
theorem EncodesItsRow.pbEnc2 (sgn : Bool) : EncodesItsRow.Statement (.pbEnc2 sgn) := fun _ => by
  cases sgn <;> decide +kernel
theorem EncodesItsRow.pbEnc4 (sgn : Bool) : EncodesItsRow.Statement (.pbEnc4 sgn) := fun _ => by
  cases sgn <;> decide +kernel
theorem EncodesItsRow.pbEnc8 (sgn : Bool) : EncodesItsRow.Statement (.pbEnc8 sgn) := fun _ => by
  cases sgn <;> decide +kernel
theorem EncodesItsRow.pbLpbuf : EncodesItsRow.Statement .pbLpbuf := fun _ => by decide +kernel
theorem EncodesItsRow.pbLpstr : EncodesItsRow.Statement .pbLpstr := fun _ => by decide +kernel
theorem EncodesItsRow.pbDump : EncodesItsRow.Statement .pbDump := fun _ => by decide +kernel
theorem EncodesItsRow.pbLen : EncodesItsRow.Statement .pbLen := fun _ => by decide +kernel
theorem EncodesItsRow.pcOpen : EncodesItsRow.Statement .pcOpen := fun _ => by decide +kernel
theorem EncodesItsRow.pcDec1 (sgn : Bool) : EncodesItsRow.Statement (.pcDec1 sgn) := fun _ => by
  cases sgn <;> decide +kernel
theorem EncodesItsRow.pcDec2 (sgn : Bool) : EncodesItsRow.Statement (.pcDec2 sgn) := fun _ => by
  cases sgn <;> decide +kernel
theorem EncodesItsRow.pcDec4 (sgn : Bool) : EncodesItsRow.Statement (.pcDec4 sgn) := fun _ => by
  cases sgn <;> decide +kernel
theorem EncodesItsRow.pcDec8 (sgn : Bool) : EncodesItsRow.Statement (.pcDec8 sgn) := fun _ => by
  cases sgn <;> decide +kernel
theorem EncodesItsRow.pcLpbuf : EncodesItsRow.Statement .pcLpbuf := fun _ => by decide +kernel
theorem EncodesItsRow.pcLpstr : EncodesItsRow.Statement .pcLpstr := fun _ => by decide +kernel
theorem EncodesItsRow.pcRemain : EncodesItsRow.Statement .pcRemain := fun _ => by decide +kernel
theorem EncodesItsRow.crc32 : EncodesItsRow.Statement .crc32 := fun _ => by decide +kernel
theorem EncodesItsRow.obfFwd : EncodesItsRow.Statement .obfFwd := fun _ => by decide +kernel
theorem EncodesItsRow.obfInv : EncodesItsRow.Statement .obfInv := fun _ => by decide +kernel
theorem EncodesItsRow.bclApply (c : Nat) : EncodesItsRow.Statement (.bclApply c) := fun h => by
  have := EncodesItsRow.commandWord_context 0x48 0x00000048 (by decide +kernel) c h
  exact ⟨congrArg some (beq_iff_eq.mpr this.1), this.2⟩
theorem EncodesItsRow.hdrGetlen : EncodesItsRow.Statement .hdrGetlen := fun _ => by decide +kernel
theorem EncodesItsRow.hdrBuild (c : Nat) : EncodesItsRow.Statement (.hdrBuild c) := fun h => by
  have := EncodesItsRow.commandWord_context 0x51 0x00000051 (by decide +kernel) c h
  exact ⟨congrArg some (beq_iff_eq.mpr this.1), this.2⟩
theorem EncodesItsRow.csInit (c : Nat) : EncodesItsRow.Statement (.csInit c) := fun h => by
  have := EncodesItsRow.commandWord_context 0x60 0x00000060 (by decide +kernel) c h
  exact ⟨congrArg some (beq_iff_eq.mpr this.1), this.2⟩
theorem EncodesItsRow.csEncrypt (c : Nat) : EncodesItsRow.Statement (.csEncrypt c) := fun h => by
  have := EncodesItsRow.commandWord_context 0x61 0x00000061 (by decide +kernel) c h
  exact ⟨congrArg some (beq_iff_eq.mpr this.1), this.2⟩
theorem EncodesItsRow.csDecrypt (c : Nat) : EncodesItsRow.Statement (.csDecrypt c) := fun h => by
  have := EncodesItsRow.commandWord_context 0x62 0x00000062 (by decide +kernel) c h
  exact ⟨congrArg some (beq_iff_eq.mpr this.1), this.2⟩
theorem EncodesItsRow.csShuffle (c : Nat) : EncodesItsRow.Statement (.csShuffle c) := fun h => by
  have := EncodesItsRow.commandWord_context 0x63 0x00000063 (by decide +kernel) c h
  exact ⟨congrArg some (beq_iff_eq.mpr this.1), this.2⟩
theorem EncodesItsRow.csGetkey (c : Nat) : EncodesItsRow.Statement (.csGetkey c) := fun h => by
  have := EncodesItsRow.commandWord_context 0x64 0x00000064 (by decide +kernel) c h
  exact ⟨congrArg some (beq_iff_eq.mpr this.1), this.2⟩
theorem EncodesItsRow.csGetver (c : Nat) : EncodesItsRow.Statement (.csGetver c) := fun h => by
  have := EncodesItsRow.commandWord_context 0x65 0x00000065 (by decide +kernel) c h
  exact ⟨congrArg some (beq_iff_eq.mpr this.1), this.2⟩

end Sys2Proof.Laws
end

