-- ==== Sys2Proof/Tests/Slice0.lean ====
section
/-! SUPPORT. Tests with values of the spec (each names its rule or its section of spec/95_test_vectors.md), and for every statement
with hypotheses a witness: a state and operands that meet all of them together. -/

namespace Sys2Proof.Tests
open Sys2Proof Sys2Proof.Machine

set_option Elab.async false

/-! ## Well-formedness: each check refuses an ill-formed term -/

theorem test_wf_bclApply : (Instr.bclApply 15).wellFormed = true ∧ (Instr.bclApply 16).wellFormed = false := by decide
theorem test_wf_hdrBuild : (Instr.hdrBuild 15).wellFormed = true ∧ (Instr.hdrBuild 16).wellFormed = false := by decide
theorem test_wf_csInit : (Instr.csInit 15).wellFormed = true ∧ (Instr.csInit 16).wellFormed = false := by decide
theorem test_wf_csEncrypt : (Instr.csEncrypt 15).wellFormed = true ∧ (Instr.csEncrypt 16).wellFormed = false := by decide
theorem test_wf_csDecrypt : (Instr.csDecrypt 15).wellFormed = true ∧ (Instr.csDecrypt 16).wellFormed = false := by decide
theorem test_wf_csShuffle : (Instr.csShuffle 15).wellFormed = true ∧ (Instr.csShuffle 16).wellFormed = false := by decide
theorem test_wf_csGetkey : (Instr.csGetkey 15).wellFormed = true ∧ (Instr.csGetkey 16).wellFormed = false := by decide
theorem test_wf_csGetver : (Instr.csGetver 15).wellFormed = true ∧ (Instr.csGetver 16).wellFormed = false := by decide

/-! ## Decoding: words written out from R71 and the opcode map of R75 -/

/-- The word decodes to the command. -/
abbrev Reads (w : Word32) (i : Instr) : Prop := decode w = .ok i

theorem test_decode_builder :
    Reads 0b00000000000000000000000000010000 .pbNew ∧ Reads 0b00000000000000000000000000010001 .pbRaw ∧
    Reads 0b00000000000000000000000000010010 (.pbEnc1 false) ∧ Reads 0b00000000000000000001000000010010 (.pbEnc1 true) ∧
    Reads 0b00000000000000000000000000010011 (.pbEnc2 false) ∧ Reads 0b00000000000000000001000000010011 (.pbEnc2 true) ∧
    Reads 0b00000000000000000000000000010100 (.pbEnc4 false) ∧ Reads 0b00000000000000000001000000010100 (.pbEnc4 true) ∧
    Reads 0b00000000000000000000000000010101 (.pbEnc8 false) ∧ Reads 0b00000000000000000001000000010101 (.pbEnc8 true) ∧
    Reads 0b00000000000000000000000000010110 .pbLpbuf ∧ Reads 0b00000000000000000000000000010111 .pbLpstr ∧
    Reads 0b00000000000000000000000000011000 .pbDump ∧ Reads 0b00000000000000000000000000011001 .pbLen := by decide +kernel

theorem test_decode_cursor :
    Reads 0b00000000000000000000000000100000 .pcOpen ∧
    Reads 0b00000000000000000000000000100001 (.pcDec1 false) ∧ Reads 0b00000000000000000001000000100001 (.pcDec1 true) ∧
    Reads 0b00000000000000000000000000100010 (.pcDec2 false) ∧ Reads 0b00000000000000000001000000100010 (.pcDec2 true) ∧
    Reads 0b00000000000000000000000000100011 (.pcDec4 false) ∧ Reads 0b00000000000000000001000000100011 (.pcDec4 true) ∧
    Reads 0b00000000000000000000000000100100 (.pcDec8 false) ∧ Reads 0b00000000000000000001000000100100 (.pcDec8 true) ∧
    Reads 0b00000000000000000000000000100101 .pcLpbuf ∧ Reads 0b00000000000000000000000000100110 .pcLpstr ∧
    Reads 0b00000000000000000000000000100111 .pcRemain := by decide +kernel

theorem test_decode_transforms :
    Reads 0b00000000000000000000000000110000 .crc32 ∧ Reads 0b00000000000000000000000001000000 .obfFwd ∧
    Reads 0b00000000000000000000000001000001 .obfInv ∧ Reads 0b00000000000000000000111101001000 (.bclApply 15) ∧
    Reads 0b00000000000000000000000001010000 .hdrGetlen ∧ Reads 0b00000000000000000000000101010001 (.hdrBuild 1) := by
  decide +kernel

theorem test_decode_cipher_state :
    Reads 0b00000000000000000000000001100000 (.csInit 0) ∧ Reads 0b00000000000000000000001001100001 (.csEncrypt 2) ∧
    Reads 0b00000000000000000000010001100010 (.csDecrypt 4) ∧ Reads 0b00000000000000000000100001100011 (.csShuffle 8) ∧
    Reads 0b00000000000000000000111101100100 (.csGetkey 15) ∧ Reads 0b00000000000000000000000101100101 (.csGetver 1) := by
  decide +kernel

/-- R76 steps (1) to (4), each at the edge of what it refuses, and R79's neighbours of the assigned opcodes. -/
theorem test_decode_refuses :
    decode 0x00002010 = .error .reservedBits ∧ decode 0x80000010 = .error .reservedBits ∧
    decode 0x0000000F = .error .unassignedOpcode ∧ decode 0x0000001A = .error .unassignedOpcode ∧
    decode 0x00000066 = .error .unassignedOpcode ∧ decode 0x000000FF = .error .unassignedOpcode ∧
    decode 0x00000110 = .error .contextNotUsed ∧ decode 0x00000812 = .error .contextNotUsed ∧
    decode 0x00001010 = .error .signedNotUsed ∧ decode 0x00001048 = .error .signedNotUsed := by decide +kernel

/-! ## One step of each command -/

/-- A command as the host issues it. -/
def cmd (cw : Word32) (arg0 arg1 : Field := 0) (din : List Byte := []) : Command := ⟨cw, arg0, arg1, din⟩

/-- The context `CS_INIT c0, FE CA DD BA, 62` constructs (R216). -/
def seeded : Context := ⟨rep4 ⟨0xFE, 0xCA, 0xDD, 0xBA⟩, 0xC1FF, true⟩

/-- A Packet with the bytes `b`, the cursor open from 0, context 0 constructed and context 1 not. -/
def packet (b : List Byte) : State :=
  { State.reset with pkt := Memory.writeBytes [] 0 b, wp := b.length, rl := b.length, ctx := [seeded, Context.reset] }

/-- What a test looks at after one step: status, results, data out, the Packet's bytes, and `WP`, `RP`, `RL`, `FSR`. -/
structure View where
  status : BitVec 8
  info0 : Field
  info1 : Field
  res0 : Field
  res1 : Field
  dout : List Byte
  bytes : List Byte
  wp : Nat
  rp : Nat
  rl : Nat
  fsr : BitVec 8
deriving DecidableEq, Repr

/-- The view of the state one step leaves, the command issued in `s`. -/
def view (s : State) (c : Command) : Option View :=
  match step { s with inbox := [c] } with
  | .next t =>
    t.outbox.head?.map fun r =>
      ⟨r.status, r.info0, r.info1, r.res0, r.res1, r.dout, t.pkt.readBytes 0 t.wp, t.wp, t.rp, t.rl, t.fsr⟩
  | _ => none

/-- The Packet's bytes after one step. -/
def bytesAfter (s : State) (c : Command) : Option (List Byte) := (view s c).map View.bytes

/-- `STATUS`, `RES0`, `RES1`, `DOUT` and `RP` after one step. -/
structure Got where
  status : BitVec 8
  res0 : Field
  res1 : Field
  dout : List Byte
  rp : Nat
deriving DecidableEq, Repr

/-- What a command gives. -/
def resultOf (s : State) (c : Command) : Option Got :=
  (view s c).map fun v => ⟨v.status, v.res0, v.res1, v.dout, v.rp⟩

/-- `STATUS`, `INFO0`, `INFO1`, `RP` and `FSR` after one step. -/
structure Stop where
  status : BitVec 8
  info0 : Field
  info1 : Field
  rp : Nat
  fsr : BitVec 8
deriving DecidableEq, Repr

/-- How a command that is not `OK` ends. -/
def stopOf (s : State) (c : Command) : Option Stop :=
  (view s c).map fun v => ⟨v.status, v.info0, v.info1, v.rp, v.fsr⟩

/-- 95, section 2: `PB_NEW` with `WP = 9, RP = 4, RL = 9`. -/
theorem test_pbNew :
    view { packet [1, 2, 3, 4, 5, 6, 7, 8, 9] with rp := 4 } (cmd 0x10) = some ⟨0, 0, 0, 0, 0, [], [], 0, 0, 0, 0⟩ := by
  decide +kernel

/-- R102's example, and an append after bytes that stand already (95, section 2, command 10). -/
theorem test_pbRaw :
    bytesAfter State.reset (cmd 0x11 0 0 [0x1C, 0x45, 0x1A, 0x45]) = some [0x1C, 0x45, 0x1A, 0x45] ∧
    bytesAfter (packet [0x6F]) (cmd 0x11 0 0 [0xFF, 0xFE]) = some [0x6F, 0xFF, 0xFE] := by decide +kernel

/-- 95, section 2, command 1, and `PB_ENC1.S -128`. -/
theorem test_pbEnc1 :
    bytesAfter State.reset (cmd 0x12 0x1FF) = some [0xFF] ∧
    bytesAfter State.reset (cmd 0x1012 0xFFFFFFFFFFFFFF80) = some [0x80] := by decide +kernel

/-- S6, and 95, section 2, command 3. -/
theorem test_pbEnc2 :
    bytesAfter State.reset (cmd 0x13 0xBAAD) = some [0xAD, 0xBA] ∧
    bytesAfter State.reset (cmd 0x1013 0xFFFFFFFFFFFFFFFE) = some [0xFE, 0xFF] := by decide +kernel

/-- S6, and 95, section 2, command 5. -/
theorem test_pbEnc4 :
    bytesAfter State.reset (cmd 0x14 0xBAADF00D) = some [0x0D, 0xF0, 0xAD, 0xBA] ∧
    bytesAfter (packet [9]) (cmd 0x14 0x1122334455667788) = some [9, 0x88, 0x77, 0x66, 0x55] := by decide +kernel

/-- R106's example. -/
theorem test_pbEnc8 :
    bytesAfter State.reset (cmd 0x15 0x0102030405060708) = some [8, 7, 6, 5, 4, 3, 2, 1] := by decide +kernel

/-- R107's example and its empty buffer. -/
theorem test_pbLpbuf :
    bytesAfter State.reset (cmd 0x16 0 0 [0xDE, 0xAD]) = some [2, 0, 0xDE, 0xAD] ∧
    bytesAfter State.reset (cmd 0x16) = some [0, 0] := by decide +kernel

/-- R108's two examples. -/
theorem test_pbLpstr :
    bytesAfter State.reset (cmd 0x17 0 0 [0x68, 0x69]) = some [2, 0, 0x68, 0x69] ∧
    bytesAfter State.reset (cmd 0x17 0 0 [0xC3, 0xA9]) = some [2, 0, 0xC3, 0xA9] := by decide +kernel

/-- R101, R261: an append of 4 bytes to a Packet of 6 under a capacity of 9 is refused whole. -/
theorem test_append_refused :
    view { packet [1, 2, 3, 4, 5, 6] with cfg := { defaultParams with pktCap := some 9 } } (cmd 0x14 0) =
      some ⟨0x85, 10, 9, 0, 0, [], [1, 2, 3, 4, 5, 6], 6, 0, 6, 0x20⟩ := by decide +kernel

/-- R109's example, and a range one byte too long. -/
theorem test_pbDump :
    resultOf (packet [0x0D, 0xF0, 0xAD, 0xBA]) (cmd 0x18 1 2) = some ⟨0, 0, 0, [0xF0, 0xAD], 0⟩ ∧
    stopOf (packet [0x0D, 0xF0, 0xAD, 0xBA]) (cmd 0x18 1 4) = some ⟨0x83, 1, 4, 0, 0x08⟩ := by decide +kernel

/-- R110's example. -/
theorem test_pbLen :
    resultOf (packet [0, 0, 0, 0, 0x0D, 0, 0x0D, 0xF0, 0xAD, 0xBA]) (cmd 0x19) = some ⟨0, 10, 0, [], 0⟩ := by decide +kernel

/-- 95, section 2: `PC_OPEN 4` and `PC_OPEN 5` with `WP = 4`. -/
theorem test_pcOpen :
    view (packet [1, 2, 3, 4]) (cmd 0x20 4) = some ⟨0, 0, 0, 0, 0, [], [1, 2, 3, 4], 4, 4, 4, 0⟩ ∧
    view (packet [1, 2, 3, 4]) (cmd 0x20 5) = some ⟨0x83, 5, 0, 0, 0, [], [1, 2, 3, 4], 4, 0, 4, 0x08⟩ := by decide +kernel

/-- 95, section 2: Packet `80`, unsigned and signed. -/
theorem test_pcDec1 :
    resultOf (packet [0x80]) (cmd 0x21) = some ⟨0, 0x80, 0, [], 1⟩ ∧
    resultOf (packet [0x80]) (cmd 0x1021) = some ⟨0, 0xFFFFFFFFFFFFFF80, 0, [], 1⟩ := by decide +kernel

/-- S6, and 95, section 2: Packet `FF 7F` signed. -/
theorem test_pcDec2 :
    resultOf (packet [0xAD, 0xBA]) (cmd 0x22) = some ⟨0, 0xBAAD, 0, [], 2⟩ ∧
    resultOf (packet [0xFF, 0x7F]) (cmd 0x1022) = some ⟨0, 0x7FFF, 0, [], 2⟩ := by decide +kernel

/-- S6, and R127's signed reading of the same bytes. -/
theorem test_pcDec4 :
    resultOf (packet [0x0D, 0xF0, 0xAD, 0xBA]) (cmd 0x23) = some ⟨0, 0xBAADF00D, 0, [], 4⟩ ∧
    resultOf (packet [0x0D, 0xF0, 0xAD, 0xBA]) (cmd 0x1023) = some ⟨0, 0xFFFFFFFFBAADF00D, 0, [], 4⟩ := by decide +kernel

/-- 95, section 2, command 18, and S7. -/
theorem test_pcDec8 :
    resultOf (packet [1, 0, 0, 0, 0, 0, 0, 0x80]) (cmd 0x1024) = some ⟨0, 0x8000000000000001, 0, [], 8⟩ ∧
    stopOf (packet [0x0D, 0xF0, 0xAD, 0xBA]) (cmd 0x24) = some ⟨0x01, 8, 4, 0, 0⟩ := by decide +kernel

/-- R131's example, and the header failure of R130 (a) (95, section 2). -/
theorem test_pcLpbuf :
    resultOf (packet [2, 0, 0xDE, 0xAD]) (cmd 0x25) = some ⟨0, 2, 2, [], 4⟩ ∧
    stopOf (packet [1]) (cmd 0x25) = some ⟨0x01, 2, 1, 0, 0⟩ := by decide +kernel

/-- R133's example, and the payload failure of R130 (b) (95, section 2). -/
theorem test_pcLpstr :
    resultOf (packet [2, 0, 0x68, 0x69]) (cmd 0x26) = some ⟨0, 0, 2, [0x68, 0x69], 4⟩ ∧
    stopOf (packet [3, 0, 0xAA]) (cmd 0x26) = some ⟨0x01, 3, 1, 2, 0⟩ := by decide +kernel

/-- R134's example. -/
theorem test_pcRemain :
    resultOf { packet [0, 0, 0, 0, 0x0D, 0, 0x0D, 0xF0, 0xAD, 0xBA] with rp := 4 } (cmd 0x27) = some ⟨0, 6, 0, [], 4⟩ := by
  decide +kernel

/-- R143's check value and a composed seed (95, section 3). -/
theorem test_crc32 :
    resultOf State.reset (cmd 0x30 0 0 [0x31, 0x32, 0x33, 0x34, 0x35, 0x36, 0x37, 0x38, 0x39]) =
      some ⟨0, 0xCBF43926, 0, [], 0⟩ ∧
    resultOf State.reset (cmd 0x30 0x9BE3E0A3 0 [0x35, 0x36, 0x37, 0x38, 0x39]) = some ⟨0, 0xCBF43926, 0, [], 0⟩ := by
  decide +kernel

/-- 95, section 4: the known payload, and `OBF_FWD 2, 2` of the same Packet. -/
theorem test_obfFwd :
    bytesAfter (packet [0x0D, 0x00, 0x0D, 0xF0, 0xAD, 0xBA]) (cmd 0x40 0 6) = some [0x88, 0xC3, 0x83, 0xFF, 0xBF, 0xA4] ∧
    bytesAfter (packet [0x0D, 0x00, 0x0D, 0xF0, 0xAD, 0xBA]) (cmd 0x40 2 2) = some [0x0D, 0x00, 0x99, 0x0E, 0xAD, 0xBA] := by
  decide +kernel

/-- 95, section 4: the inverse of the known payload's transform, and of the payload itself. -/
theorem test_obfInv :
    bytesAfter (packet [0x88, 0xC3, 0x83, 0xFF, 0xBF, 0xA4]) (cmd 0x41 0 6) = some [0x0D, 0x00, 0x0D, 0xF0, 0xAD, 0xBA] ∧
    bytesAfter (packet [0x0D, 0x00, 0x0D, 0xF0, 0xAD, 0xBA]) (cmd 0x41 0 6) = some [0xC0, 0x40, 0x05, 0x21, 0x60, 0xA2] := by
  decide +kernel

/-- R177's example: the keystream over zero bytes (95, section 5). -/
theorem test_bclApply :
    bytesAfter (packet [0, 0, 0, 0, 0, 0]) (cmd 0x48 0 6) = some [0x86, 0x3E, 0x88, 0xFC, 0x8A, 0xC5] := by decide +kernel

/-- R207's example, and bits above 31 ignored (95, section 6). -/
theorem test_hdrGetlen :
    resultOf State.reset (cmd 0x50 0x56781234) = some ⟨0, 0x444C, 0, [], 0⟩ ∧
    resultOf State.reset (cmd 0x50 0xAAAAAAAA451A451C) = some ⟨0, 6, 0, [], 0⟩ := by decide +kernel

/-- R208's two examples. -/
theorem test_hdrBuild :
    resultOf (packet []) (cmd 0x51 6) = some ⟨0, 0x451A451C, 0, [], 0⟩ ∧
    resultOf (packet []) (cmd 0x51 1460) = some ⟨0, 0x40A8451C, 0, [], 0⟩ := by decide +kernel

/-- R216's example, and `BAD_CONTEXT` on context 2 of 2 (R257). -/
theorem test_csInit :
    (match step { State.reset with inbox := [cmd 0x160 0xBADDCAFE 62] } with
      | .next t => some t.ctx
      | _ => none) = some [Context.reset, seeded] ∧
    stopOf State.reset (cmd 0x260 0xBADDCAFE 62) = some ⟨0x81, 2, 2, 0, 0x02⟩ := by decide +kernel

/-- R218's example, and R264's `SHORT_BUFFER`. -/
theorem test_csEncrypt :
    bytesAfter (packet [0, 0, 0, 0, 0x0D, 0, 0x0D, 0xF0, 0xAD, 0xBA]) (cmd 0x61 0 10) =
      some [0x1C, 0x45, 0x1A, 0x45, 0x0E, 0xFD, 0x0B, 0x03, 0x35, 0x61] ∧
    stopOf (packet [1, 2, 3, 4, 5, 6]) (cmd 0x61 0 2) = some ⟨0x84, 2, 4, 0, 0x10⟩ := by decide +kernel

/-- R220's example, and an unconstructed context with a range that does not lie in the Packet either (R264). -/
theorem test_csDecrypt :
    bytesAfter (packet [0x1C, 0x45, 0x1A, 0x45, 0x0E, 0xFD, 0x0B, 0x03, 0x35, 0x61]) (cmd 0x62 4 6) =
      some [0x1C, 0x45, 0x1A, 0x45, 0x0D, 0, 0x0D, 0xF0, 0xAD, 0xBA] ∧
    stopOf (packet []) (cmd 0x162 4 6) = some ⟨0x82, 1, 0, 0, 0x04⟩ := by decide +kernel

/-- The source's vector (S3, R244). -/
theorem test_csShuffle :
    (match step { packet [] with inbox := [cmd 0x63] } with
      | .next t => some (t.ctx, t.outbox.head?.map Response.res0)
      | _ => none) =
      some ([{ seeded with key := rep4 ⟨0x81, 0xA5, 0x8F, 0x29⟩ }, Context.reset], some 0x298FA581) := by decide +kernel

/-- R222's example. -/
theorem test_csGetkey :
    resultOf (packet []) (cmd 0x64) =
      some ⟨0, 0, 0, [0xFE, 0xCA, 0xDD, 0xBA, 0xFE, 0xCA, 0xDD, 0xBA, 0xFE, 0xCA, 0xDD, 0xBA, 0xFE, 0xCA, 0xDD, 0xBA], 0⟩ := by
  decide +kernel

/-- R223's example. -/
theorem test_csGetver : resultOf (packet []) (cmd 0x65) = some ⟨0, 62, 0xC1FF, [], 0⟩ := by decide +kernel

/-- R256: the word itself is the information, the operands play no part. -/
theorem test_illegal : stopOf (packet [1]) (cmd 0xDEAD0010 7 8 [9]) = some ⟨0x80, 0xDEAD0010, 0, 0, 0x01⟩ := by decide +kernel

/-- R191: the published example of AES-256. -/
theorem test_aesEnc :
    (aesEnc ⟨⟨⟨0x00, 0x01, 0x02, 0x03⟩, ⟨0x04, 0x05, 0x06, 0x07⟩, ⟨0x08, 0x09, 0x0A, 0x0B⟩, ⟨0x0C, 0x0D, 0x0E, 0x0F⟩⟩,
        ⟨⟨0x10, 0x11, 0x12, 0x13⟩, ⟨0x14, 0x15, 0x16, 0x17⟩, ⟨0x18, 0x19, 0x1A, 0x1B⟩, ⟨0x1C, 0x1D, 0x1E, 0x1F⟩⟩⟩
      ⟨⟨0x00, 0x11, 0x22, 0x33⟩, ⟨0x44, 0x55, 0x66, 0x77⟩, ⟨0x88, 0x99, 0xAA, 0xBB⟩, ⟨0xCC, 0xDD, 0xEE, 0xFF⟩⟩).toList =
      [0x8E, 0xA2, 0xB7, 0xCA, 0x51, 0x67, 0x45, 0xBF, 0xEA, 0xFC, 0x49, 0x90, 0x4B, 0x49, 0x60, 0x89] := by decide +kernel

/-- The word a host places is the word the next step runs. -/
theorem test_withFetchWord :
    ((State.reset.withFetchWord 32 0x19).inbox.map Command.cw, decodeTableWord 32 0x19, decodeTableWord 32 0x1A) =
      ([0x19], some .pbLen, none) := by decide +kernel

/-! ## Witnesses: for each statement with hypotheses, states and operands that meet them -/

/-- The known frame's Packet (S5), the cursor at the payload, `cs` issued. -/
def framed (cs : List Command) : State :=
  { packet [0, 0, 0, 0, 0x0D, 0, 0x0D, 0xF0, 0xAD, 0xBA] with rp := 4, inbox := cs }

/-- A Packet of `n` zero bytes under a capacity of 8. -/
def small (n : Nat) (c : Command) : State :=
  { State.reset with wp := n, cfg := { defaultParams with pktCap := some 8 }, inbox := [c] }

theorem witness_DecodeUndoesEncode : (Instr.csInit 0).WellFormed ∧ (Instr.csGetver 15).WellFormed ∧ (Instr.pbEnc1 true).WellFormed := by
  decide
theorem witness_EncodeUndoesDecode : decode 0x00000F65 = .ok (.csGetver 15) ∧ decode 0x00001015 = .ok (.pbEnc8 true) := by
  decide +kernel
theorem witness_DecodeAcceptsTableWords :
    ∃ r ∈ opcodeTable, r.selects 0x00000F65 = true ∧ ∃ r' ∈ opcodeTable, r'.selects 0x00000F65 = true := by decide +kernel
theorem witness_StepRunsDecodedCommand :
    (framed [cmd 0x19, cmd 0x27]).inbox = cmd 0x19 :: [cmd 0x27] ∧ decode (cmd 0x19).cw = .ok .pbLen := by decide +kernel
theorem witness_IllegalWordIsReported :
    (∀ r ∈ opcodeTable, r.selects (cmd 0x1A).cw = false) ∧ (∀ r ∈ opcodeTable, r.selects (cmd 0x2010).cw = false) ∧
    (∀ r ∈ opcodeTable, r.selects (cmd 0x110).cw = false) ∧ (∀ r ∈ opcodeTable, r.selects (cmd 0x1048).cw = false) ∧
    (framed [cmd 0x1A]).inbox = cmd 0x1A :: [] := by decide +kernel
theorem witness_IdleStepChangesNothing : State.reset.inbox = [] := rfl
theorem witness_EveryCommandIsAnsweredOnce : (framed [cmd 0xFFFFFFFF]).inbox = cmd 0xFFFFFFFF :: [] := rfl

/-- One step as a state, for the witnesses that speak of a step's result. -/
def next (s : State) : State :=
  match step s with
  | .next t => t
  | _ => s

/-- A step that answers a next state answers `next`. -/
theorem step_eq_next (s : State) : step s = .next (next s) := by
  unfold next
  cases h : step s with
  | next t => rfl
  | fault r => cases hs : s.inbox with
    | nil => simp [step, hs] at h
    | cons c cs =>
      simp only [step, hs] at h
      split at h
      · rename_i i _; cases i <;> cases h
      · cases h
  | refused r => cases hs : s.inbox with
    | nil => simp [step, hs] at h
    | cons c cs =>
      simp only [step, hs] at h
      split at h
      · rename_i i _; cases i <;> cases h
      · cases h

/-- The response an `OK` step adds, a fault's and an `END_OF_DATA`'s: every status clause is met. -/
theorem witness_ResponsesAreWellShaped :
    step (framed [cmd 0x19]) = .next (next (framed [cmd 0x19])) ∧
    (next (framed [cmd 0x19])).outbox = (framed [cmd 0x19]).outbox ++ [⟨0, 0, 0, 10, 0, [], 0⟩] ∧
    step (framed [cmd 0x24]) = .next (next (framed [cmd 0x24])) ∧
    (next (framed [cmd 0x24])).outbox = (framed [cmd 0x24]).outbox ++ [⟨1, 8, 6, 0, 0, [], 0⟩] :=
  ⟨step_eq_next _, by decide +kernel, step_eq_next _, by decide +kernel⟩
theorem witness_FaultChangesOnlyItsStickyBit :
    step (framed [cmd 0x20 11]) = .next (next (framed [cmd 0x20 11])) ∧
    (next (framed [cmd 0x20 11])).outbox = (framed [cmd 0x20 11]).outbox ++ [⟨0x83, 11, 0, 0, 0, [], 0x08⟩] ∧
    (0x83 : BitVec 8).msb = true := ⟨step_eq_next _, by decide +kernel, by decide +kernel⟩
/-- Both forms: a fixed-width read, and a prefix that declares 13 bytes with 4 ahead. -/
theorem witness_EndOfDataKeepsState :
    step (framed [cmd 0x24]) = .next (next (framed [cmd 0x24])) ∧
    (next (framed [cmd 0x24])).outbox = (framed [cmd 0x24]).outbox ++ [⟨0x01, 8, 6, 0, 0, [], 0⟩] ∧
    step (framed [cmd 0x25]) = .next (next (framed [cmd 0x25])) ∧
    (next (framed [cmd 0x25])).outbox = (framed [cmd 0x25]).outbox ++ [⟨0x01, 13, 4, 0, 0, [], 0⟩] :=
  ⟨step_eq_next _, by decide +kernel, step_eq_next _, by decide +kernel⟩
theorem witness_StepsNeverClearFlags :
    step (framed [cmd 0x60]) = .next (next (framed [cmd 0x60])) ∧ (framed [cmd 0x60]).ctx[0]? = some seeded ∧ seeded.valid = true :=
  ⟨step_eq_next _, by decide +kernel, rfl⟩
theorem witness_ContextsWrittenOnlyByTheirCommands :
    exec (.csShuffle 0) (framed [cmd 0x63]) = .next (next (framed [cmd 0x63])) ∧ (framed [cmd 0x63]).ctx[0]? = some seeded ∧
    (Instr.csShuffle 0 ≠ .csInit 1 ∧ Instr.csShuffle 0 ≠ .csShuffle 1) :=
  ⟨step_eq_next (framed [cmd 0x63]), by decide +kernel, by decide⟩
/-- A command none of the clauses leaves out. -/
theorem witness_PointersMoveOnlyByTheirCommands :
    exec .pcRemain (framed [cmd 0x27]) = .next (next (framed [cmd 0x27])) ∧ Instr.pcRemain ≠ .pbNew ∧ Instr.pcRemain ≠ .pcOpen ∧
    ¬ IsAppend .pcRemain ∧ ¬ IsRead .pcRemain :=
  ⟨step_eq_next (framed [cmd 0x27]), by decide, by decide, by simp [IsAppend], by simp [IsRead]⟩
/-- An append, a transform, and a command that is neither; in each, address 10 is `WP`. -/
theorem witness_NoWriteBeyondThePacket :
    (framed [cmd 0x40 4 6]).Inv ∧ exec .obfFwd (framed [cmd 0x40 4 6]) = .next (next (framed [cmd 0x40 4 6])) ∧
    (framed [cmd 0x40 4 6]).wp ≤ 10 ∧ (next (framed [cmd 0x40 4 6])).wp ≤ 10 ∧
    exec (.pbEnc1 false) (framed [cmd 0x12]) = .next (next (framed [cmd 0x12])) ∧ IsAppend (.pbEnc1 false) ∧
    9 < (framed [cmd 0x12]).wp ∧ ¬ IsAppend .pbNew ∧ ¬ IsTransform .pbNew :=
  ⟨by decide +kernel, step_eq_next (framed [cmd 0x40 4 6]), by decide +kernel, by decide +kernel,
    step_eq_next (framed [cmd 0x12]), by simp [IsAppend], by decide +kernel, by simp [IsAppend], by simp [IsTransform]⟩
theorem witness_ParametersNeverChange : step (framed [cmd 0x10]) = .next (next (framed [cmd 0x10])) := step_eq_next _
theorem witness_StepIgnoresPastResponses : step (framed [cmd 0x27]) = .next (next (framed [cmd 0x27])) := step_eq_next _
theorem witness_FaultRegisterAffectsNoCommand : step (framed [cmd 0x1A]) = .next (next (framed [cmd 0x1A])) := step_eq_next _
/-- Two states that differ above `WP` and in the unconstructed context, and are not equal. -/
theorem witness_UnwrittenStateIsUnobservable :
    let s := framed [cmd 0x18 4 6]
    let s' := { s with pkt := s.pkt.writeByte 10 0x55, ctx := [seeded, ⟨rep4 ⟨1, 2, 3, 4⟩, 7, false⟩] }
    s.Inv ∧ s'.Inv ∧ s.SameVisible s' ∧ s ≠ s' ∧ step s = .next (next s) := by
  refine ⟨by decide +kernel, by decide +kernel, ⟨rfl, rfl, rfl, rfl, rfl, rfl, rfl, ?_, ?_⟩, by decide +kernel, step_eq_next _⟩
  · decide +kernel
  · exact .cons ⟨rfl, fun _ => rfl⟩ (.cons ⟨rfl, by intro h; cases h⟩ .nil)
theorem witness_ResetClearsTheEngine : Context.reset ∈ (State.resetWith defaultParams 16).ctx := by decide +kernel
theorem witness_ResetMeetsTheInvariants :
    ({ defaultParams with pktCap := some 4 } : Config.Params).Legal ∧ ({ defaultParams with pktCap := none } : Config.Params).Legal ∧
    1 ≤ 16 ∧ 16 ≤ 16 := by decide +kernel
theorem witness_StepKeepsTheInvariants :
    (framed [cmd 0x61 0 10]).Inv ∧ step (framed [cmd 0x61 0 10]) = .next (next (framed [cmd 0x61 0 10])) :=
  ⟨by decide +kernel, step_eq_next _⟩

/-- Each width filling the Packet to its capacity exactly. -/
theorem witness_IntegerAppendsAreLittleEndian :
    ((small 7 (cmd 0x12 0xFF)).Inv ∧ (small 7 (cmd 0x12 0xFF)).roomFor 1 = true) ∧
    ((small 6 (cmd 0x13 0xFF)).Inv ∧ (small 6 (cmd 0x13 0xFF)).roomFor 2 = true) ∧
    ((small 4 (cmd 0x14 0xFF)).Inv ∧ (small 4 (cmd 0x14 0xFF)).roomFor 4 = true) ∧
    ((small 0 (cmd 0x15 0xFF)).Inv ∧ (small 0 (cmd 0x15 0xFF)).roomFor 8 = true) := by decide +kernel
theorem witness_StreamAppendsKeepTheirBytes :
    ((small 5 (cmd 0x11 0 0 [1, 2, 3])).Inv ∧ (small 5 (cmd 0x11 0 0 [1, 2, 3])).roomFor 3 = true) ∧
    ((small 3 (cmd 0x16 0 0 [1, 2, 3])).Inv ∧ (small 3 (cmd 0x16 0 0 [1, 2, 3])).roomFor (2 + 3) = true) := by decide +kernel
/-- One byte too many, for each kind of append. -/
theorem witness_AppendsBeyondCapacityAreRefused :
    (small 8 (cmd 0x12)).cfg.pktCap = some 8 ∧ 8 < (small 8 (cmd 0x12)).wp + 1 ∧ 8 < (small 7 (cmd 0x13)).wp + 2 ∧
    8 < (small 5 (cmd 0x14)).wp + 4 ∧ 8 < (small 1 (cmd 0x15)).wp + 8 ∧ 8 < (small 6 (cmd 0x11 0 0 [1, 2, 3])).wp + 3 ∧
    8 < (small 4 (cmd 0x16 0 0 [1, 2, 3])).wp + (2 + 3) ∧ (small 8 (cmd 0x12)).wp + 1 < 2 ^ 64 := by decide +kernel
theorem witness_PbDumpReturnsTheRange :
    (framed [cmd 0x18 4 6]).arg0.toNat + (framed [cmd 0x18 4 6]).arg1.toNat ≤ (framed [cmd 0x18 4 6]).wp ∧
    (framed [cmd 0x18 10 1]).wp < (framed [cmd 0x18 10 1]).arg0.toNat + (framed [cmd 0x18 10 1]).arg1.toNat := by decide +kernel
theorem witness_LengthsAreReported :
    (framed [cmd 0x19]).wp < 2 ^ 64 ∧ (framed [cmd 0x27]).rl - (framed [cmd 0x27]).rp < 2 ^ 64 := by decide +kernel
theorem witness_PcOpenSetsTheCursor :
    (framed [cmd 0x20 10]).arg0.toNat ≤ (framed [cmd 0x20 10]).wp ∧ (framed [cmd 0x20 11]).wp < (framed [cmd 0x20 11]).arg0.toNat := by
  decide +kernel

/-- The cursor over exactly eight bytes, at the last place each width still fits. -/
def eight (rp : Nat) : State := { packet [1, 2, 3, 4, 5, 6, 7, 0x80] with rp := rp, inbox := [cmd 0x1024] }

theorem witness_IntegerReadsAreLittleEndian :
    ((eight 7).rp + 1 ≤ (eight 7).rl ∧ (eight 7).pkt.Holds (eight 7).rp [0x80]) ∧
    ((eight 6).rp + 2 ≤ (eight 6).rl ∧ (eight 6).pkt.Holds (eight 6).rp [7, 0x80]) ∧
    ((eight 4).rp + 4 ≤ (eight 4).rl ∧ (eight 4).pkt.Holds (eight 4).rp [5, 6, 7, 0x80]) ∧
    ((eight 0).rp + 8 ≤ (eight 0).rl ∧ (eight 0).pkt.Holds (eight 0).rp [1, 2, 3, 4, 5, 6, 7, 0x80]) := by
  unfold Memory.Holds; decide +kernel
theorem witness_ShortIntegerReadsChangeNothing :
    (eight 8).rl - (eight 8).rp < 1 ∧ (eight 7).rl - (eight 7).rp < 2 ∧ (eight 5).rl - (eight 5).rp < 4 ∧
    (eight 1).rl - (eight 1).rp < 8 := by decide +kernel
/-- An item that ends at the cursor's limit. -/
theorem witness_PrefixedReadsReturnTheItem :
    let s := packet [2, 0, 0xDE, 0xAD]
    s.rp + 2 + 2 ≤ s.rl ∧ s.pkt.Holds s.rp [2, 0] ∧ 2 = (2 : Byte).toNat + 256 * (0 : Byte).toNat ∧ s.rp + 2 < 2 ^ 64 := by
  unfold Memory.Holds; decide +kernel
theorem witness_PrefixedReadsFailInTwoWays :
    ((packet [1]).rl - (packet [1]).rp < 2) ∧
    (let s := packet [3, 0, 1, 2]
     s.rp + 2 ≤ s.rl ∧ s.pkt.Holds s.rp [3, 0] ∧ 3 = (3 : Byte).toNat + 256 * (0 : Byte).toNat ∧ s.rl < s.rp + 2 + 3) := by
  unfold Memory.Holds; decide +kernel
/-- The four widths, `WP` before the append 10. -/
theorem witness_IntegerRoundTrip :
    ∀ e ∈ [(0x1012, 0x21, Instr.pbEnc1 true, Instr.pcDec1 false, 1), (0x1013, 0x22, .pbEnc2 true, .pcDec2 false, 2),
        (0x1014, 0x23, .pbEnc4 true, .pcDec4 false, 4), (0x1015, 0x24, .pbEnc8 true, .pcDec8 false, 8)],
      let s := framed [cmd e.1 0xBAADF00D, cmd 0x20 10, cmd e.2.1]
      s.Inv ∧ s.roomFor e.2.2.2.2 = true ∧ s.inbox = cmd e.1 0xBAADF00D :: cmd 0x20 10 :: cmd e.2.1 :: [] ∧
      (cmd e.1 0xBAADF00D).cw = encode e.2.2.1 ∧ (cmd 0x20 10).cw = encode .pcOpen ∧ (cmd 0x20 10).arg0.toNat = s.wp ∧
      (cmd e.2.1).cw = encode e.2.2.2.1 := by decide +kernel
theorem witness_PrefixedRoundTrip :
    let s := framed [cmd 0x16 0 0 [0xDE, 0xAD], cmd 0x20 10, cmd 0x26]
    s.Inv ∧ s.roomFor (2 + 2) = true ∧ s.inbox = cmd 0x16 0 0 [0xDE, 0xAD] :: cmd 0x20 10 :: cmd 0x26 :: [] ∧
    (cmd 0x16 0 0 [0xDE, 0xAD]).cw = encode .pbLpbuf ∧ (cmd 0x16 0 0 [0xDE, 0xAD]).din.length ≤ 65535 ∧
    (cmd 0x20 10).cw = encode .pcOpen ∧ (cmd 0x20 10).arg0.toNat = s.wp ∧ (cmd 0x26).cw = encode .pcLpstr := by decide +kernel
/-- The default convention over one byte, and the unknown one. -/
theorem witness_Crc32ReportsTheChecksum :
    defaultParams.crc = .convention defaultCrc ∧ defaultCrc.order = .lsbFirst ∧ 0 < ([0x31] : List Byte).length ∧ 7 < 8 ∧
    ({ defaultParams with crc := .uninterpreted } : Config.Params).crc = .uninterpreted := by decide +kernel
/-- The default, a convention of the other bit order, and the unknown one. -/
theorem witness_Crc32Composes :
    defaultParams.Legal ∧
    ({ defaultParams with crc := .convention ⟨0x04C11DB7, .msbFirst, 0xFFFFFFFF, 0xFFFFFFFF⟩ } : Config.Params).Legal ∧
    ({ defaultParams with crc := .uninterpreted } : Config.Params).Legal := by decide +kernel
/-- Both ends of a buffer of two bytes; each tap is one of the three. -/
theorem witness_ObfuscationSubPassesByIndex :
    1 ≤ 1 ∧ 1 ≤ 2 ∧ 2 ≤ ([1, 2] : List Byte).length ∧ 1 < ([1, 2] : List Byte).length ∧
    defaultParams.obfATap = .postAccXor := by decide
theorem witness_ObfuscationCommandsTransformTheRange :
    ((framed [cmd 0x40 4 6]).Inv ∧ (framed [cmd 0x40 4 6]).base + (framed [cmd 0x40 4 6]).len ≤ (framed [cmd 0x40 4 6]).wp ∧
      ([0x0D, 0, 0x0D, 0xF0, 0xAD, 0xBA] : List Byte).length = (framed [cmd 0x40 4 6]).len ∧
      (framed [cmd 0x40 4 6]).pkt.Holds (framed [cmd 0x40 4 6]).base [0x0D, 0, 0x0D, 0xF0, 0xAD, 0xBA]) ∧
    (framed [cmd 0x40 4 7]).Inv ∧ (framed [cmd 0x40 4 7]).wp < (framed [cmd 0x40 4 7]).base + (framed [cmd 0x40 4 7]).len := by
  unfold Memory.Holds; decide +kernel
/-- Both keystream functions, at the last byte a chunk uses. -/
theorem witness_KeystreamIsConsistent :
    1456 ≤ 1460 ∧ 1459 < 1460 ∧ defaultParams.keystream = .aes256Ofb ∧
    ({ defaultParams with keystream := .uninterpreted } : Config.Params).keystream = .uninterpreted := by decide
theorem witness_LayerMasksByChunkOffset :
    1455 < (List.replicate 1457 (0 : Byte)).length ∧ 1456 < (List.replicate 1457 (0 : Byte)).length := by
  rw [List.length_replicate]; decide
theorem witness_BclApplyMasksTheRange :
    let s := framed [cmd 0x48 4 6]
    0 < 16 ∧ s.Inv ∧ s.ctx[0]? = some seeded ∧ seeded.valid = true ∧ s.base + s.len ≤ s.wp ∧
    ([0x0D, 0, 0x0D, 0xF0, 0xAD, 0xBA] : List Byte).length = s.len ∧ s.pkt.Holds s.base [0x0D, 0, 0x0D, 0xF0, 0xAD, 0xBA] := by
  unfold Memory.Holds; decide +kernel
theorem witness_SboxIsTheAffineInverse : (1 : Byte) ≠ 0 := by decide
theorem witness_HdrBuildReturnsTheHeader :
    15 < 16 ∧ (framed [cmd 0x51 6]).ctx[0]? = some seeded ∧ seeded.valid = true ∧
    (0x1C : Byte) = seeded.key.q0.b2 ^^^ seeded.ver.extractLsb' 8 8 ∧
    (0x45 : Byte) = seeded.key.q0.b3 ^^^ seeded.ver.extractLsb' 0 8 := by decide +kernel
/-- The last context the block holds. -/
theorem witness_CsInitConstructsTheContext :
    let s := framed [cmd 0x160 0xBADDCAFE 62]
    1 < s.ctx.length ∧ (⟨0xFE, 0xCA, 0xDD, 0xBA⟩ : Bytes4) =
      ⟨s.arg0.extractLsb' 0 8, s.arg0.extractLsb' 8 8, s.arg0.extractLsb' 16 8, s.arg0.extractLsb' 24 8⟩ := by decide +kernel
/-- A payload of 6 bytes, and the empty one. -/
theorem witness_CsEncryptWritesTheFrame :
    (let s := framed [cmd 0x61 0 10]
     s.Inv ∧ s.ctx[0]? = some seeded ∧ seeded.valid = true ∧ s.base + s.len ≤ s.wp ∧
     ([0x0D, 0, 0x0D, 0xF0, 0xAD, 0xBA] : List Byte).length + 4 = s.len ∧
     s.pkt.Holds (s.base + 4) [0x0D, 0, 0x0D, 0xF0, 0xAD, 0xBA]) ∧
    (let s := framed [cmd 0x61 6 4]
     s.Inv ∧ s.base + s.len ≤ s.wp ∧ ([] : List Byte).length + 4 = s.len ∧ s.pkt.Holds (s.base + 4) []) := by
  unfold Memory.Holds; decide +kernel
theorem witness_CsDecryptTransformsTheRange :
    let s := framed [cmd 0x62 4 6]
    s.Inv ∧ s.ctx[0]? = some seeded ∧ seeded.valid = true ∧ s.base + s.len ≤ s.wp ∧
    ([0x0D, 0, 0x0D, 0xF0, 0xAD, 0xBA] : List Byte).length = s.len ∧ s.pkt.Holds s.base [0x0D, 0, 0x0D, 0xF0, 0xAD, 0xBA] := by
  unfold Memory.Holds; decide +kernel
/-- The receiver's context holds an equal key and another version. -/
theorem witness_EncryptDecryptRoundTrip :
    let s := { framed [cmd 0x61 0 10, cmd 0x162 4 6] with ctx := [seeded, { seeded with ver := 0 }] }
    s.Inv ∧ 0 < 16 ∧ 1 < 16 ∧ s.ctx[0]? = some seeded ∧ seeded.valid = true ∧ s.ctx[1]? = some { seeded with ver := 0 } ∧
    s.inbox = cmd 0x61 0 10 :: cmd 0x162 4 6 :: [] ∧ (cmd 0x61 0 10).cw = encode (.csEncrypt 0) ∧
    (cmd 0x162 4 6).cw = encode (.csDecrypt 1) ∧ 4 ≤ (cmd 0x61 0 10).arg1.toNat ∧
    (cmd 0x61 0 10).arg0.toNat + (cmd 0x61 0 10).arg1.toNat ≤ s.wp ∧
    (cmd 0x162 4 6).arg0.toNat = (cmd 0x61 0 10).arg0.toNat + 4 ∧
    (cmd 0x162 4 6).arg1.toNat + 4 = (cmd 0x61 0 10).arg1.toNat := by decide +kernel
/-- The last key byte a round takes, and both round updates. -/
theorem witness_CsShuffleAdvancesTheKey :
    15 < 16 ∧ (framed [cmd 0x63]).ctx[0]? = some seeded ∧ seeded.valid = true ∧
    (⟨0x81, 0xA5, 0x8F, 0x29⟩ : Bytes4) = shuffle (framed [cmd 0x63]).cfg seeded.key ∧ 3 < 4 ∧
    defaultParams.shufRound = .fourUpdates ∧
    ({ defaultParams with shufRound := .uninterpreted } : Config.Params).shufRound = .uninterpreted := by decide +kernel
theorem witness_ContextReadsReportTheContext :
    (framed [cmd 0x64]).ctx[0]? = some ⟨⟨⟨0xFE, 0xCA, 0xDD, 0xBA⟩, ⟨0xFE, 0xCA, 0xDD, 0xBA⟩, ⟨0xFE, 0xCA, 0xDD, 0xBA⟩,
      ⟨0xFE, 0xCA, 0xDD, 0xBA⟩⟩, 0xC1FF, true⟩ := by decide +kernel
/-- The first absent context and the last number the field can name. -/
theorem witness_AbsentContextIsReported :
    (framed [cmd 0x264]).ContextsCounted ∧ 2 < 16 ∧ (framed [cmd 0x264]).ctx.length ≤ 2 ∧ 15 < 16 ∧
    (framed [cmd 0xF64]).ctx.length ≤ 15 := by decide +kernel
theorem witness_UnconstructedContextIsReported :
    1 < 16 ∧ (framed [cmd 0x164]).ctx[1]? = some Context.reset ∧ Context.reset.valid = false := by decide +kernel
/-- R264's pair: a range one byte too long, and 3 bytes that lie in the Packet; and a step that ends with `SHORT_BUFFER`. -/
theorem witness_BadRangesAreReportedInOrder :
    ((framed [cmd 0x61 4 7]).ctx[0]? = some seeded ∧ seeded.valid = true ∧
    (framed [cmd 0x61 4 7]).wp < (framed [cmd 0x61 4 7]).arg0.toNat + (framed [cmd 0x61 4 7]).arg1.toNat ∧
    (framed [cmd 0x61 7 3]).arg0.toNat + (framed [cmd 0x61 7 3]).arg1.toNat ≤ (framed [cmd 0x61 7 3]).wp ∧
    (framed [cmd 0x61 7 3]).arg1.toNat < 4) ∧
    exec (.csEncrypt 0) (framed [cmd 0x61 7 3]) = .next (next (framed [cmd 0x61 7 3])) ∧
    (next (framed [cmd 0x61 7 3])).outbox = (framed [cmd 0x61 7 3]).outbox ++ [⟨0x84, 3, 4, 0, 0, [], 0x10⟩] :=
  ⟨by decide +kernel, step_eq_next (framed [cmd 0x61 7 3]), by decide +kernel⟩

end Sys2Proof.Tests
end

section
/-! PROOFS. The transforms a command applies to a range keep its length: the obfuscation both ways (spec/43_obfuscation.md R150,
R156), the block-cipher layer (spec/44_block_cipher_layer.md R174), and the payload transforms made of them. -/

namespace Sys2Proof.Machine

/-! ### The obfuscation -/

@[simp] theorem length_scanA (tap : Config.Tap) (j : Nat) (acc : Byte) (b : List Byte) :
    (scanA tap j acc b).length = b.length := by
  induction b generalizing j acc with
  | nil => rfl
  | cons x xs ih => simp [scanA, ih]

@[simp] theorem length_scanB (acc : Byte) (b : List Byte) : (scanB acc b).length = b.length := by
  induction b generalizing acc with
  | nil => rfl
  | cons x xs ih => simp [scanB, ih]

@[simp] theorem length_scanInvA (tap : Config.Tap) (j : Nat) (acc : Byte) (b : List Byte) :
    (scanInvA tap j acc b).length = b.length := by
  induction b generalizing j acc with
  | nil => rfl
  | cons x xs ih => simp [scanInvA, ih]

@[simp] theorem length_scanInvB (acc : Byte) (b : List Byte) : (scanInvB acc b).length = b.length := by
  induction b generalizing acc with
  | nil => rfl
  | cons x xs ih => simp [scanInvB, ih]

@[simp] theorem length_obfRound (tap : Config.Tap) (b : List Byte) : (obfRound tap b).length = b.length := by
  simp [obfRound, subPassA, subPassB]

@[simp] theorem length_obfInvRound (tap : Config.Tap) (b : List Byte) : (obfInvRound tap b).length = b.length := by
  simp [obfInvRound, invSubPassA, invSubPassB]

@[simp] theorem length_obfFwd (tap : Config.Tap) (b : List Byte) : (obfFwd tap b).length = b.length := by
  simp [obfFwd]

@[simp] theorem length_obfInv (tap : Config.Tap) (b : List Byte) : (obfInv tap b).length = b.length := by
  simp [obfInv]

/-! ### The block-cipher layer -/

/-- The keystream has as many bytes as are asked for, under either keystream function (R171). -/
@[simp] theorem length_keystream (p : Config.Params) (iv : Bytes16) (n : Nat) : (keystream p iv n).length = n := by
  unfold keystream
  cases p.keystream with
  | aes256Ofb =>
    have hblocks : n ≤ 16 * ((n + 15) / 16) := by omega
    simpa [ofbKeystream, length_ofbBlocks] using hblocks
  | uninterpreted => simp

/-- The chunk loop keeps the length while no chunk outgrows the keystream. -/
theorem length_bclChunks (ks : List Byte) (fuel chunk : Nat) (b : List Byte) (hchunk : chunk ≤ laterChunk)
    (hks : min b.length laterChunk ≤ ks.length) : (bclChunks ks fuel chunk b).length = b.length := by
  induction fuel generalizing chunk b with
  | zero => rfl
  | succ fuel ih =>
    cases b with
    | nil => rfl
    | cons x xs =>
      have hrest : (bclChunks ks fuel laterChunk ((x :: xs).drop chunk)).length = ((x :: xs).drop chunk).length :=
        ih laterChunk _ le_rfl (by simp only [List.length_drop]; omega)
      have htaken : min (min chunk (x :: xs).length) ks.length = min chunk (x :: xs).length := by omega
      simp only [bclChunks, xorBytes, List.length_append, List.length_zipWith, List.length_take, htaken, hrest,
        List.length_drop]
      omega

@[simp] theorem length_bcl (p : Config.Params) (iv : Bytes16) (b : List Byte) : (bcl p iv b).length = b.length :=
  length_bclChunks _ _ _ _ (by decide) (by simp)

@[simp] theorem length_encryptPayload (p : Config.Params) (key : Bytes16) (b : List Byte) :
    (encryptPayload p key b).length = b.length := by simp [encryptPayload]

@[simp] theorem length_decryptPayload (p : Config.Params) (key : Bytes16) (b : List Byte) :
    (decryptPayload p key b).length = b.length := by simp [decryptPayload]

end Sys2Proof.Machine
end

section
/-! PROOFS. When two memories, and two states, look the same to every command: the bytes a command can reach agree, the valid contexts
agree, and so do the pointers, the issued commands and the parameters. The fault register and the past responses are left out: no
command looks at them. -/

namespace Sys2Proof.Machine

/-! ### Memories -/

/-- One block write after another that ends where it begins. -/
theorem Memory.writeBytes_append (m : Memory) (a : Nat) (b c : List Byte) :
    m.writeBytes a (b ++ c) = (m.writeBytes a b).writeBytes (a + b.length) c := by
  induction b generalizing m a with
  | nil => rfl
  | cons v vs ih =>
    rw [List.cons_append, Memory.writeBytes, ih, Memory.writeBytes, List.length_cons, Nat.add_right_comm, Nat.add_assoc]

/-- Two memories read the same below `n`, and go on doing so when both are written alike: they are one memory, or both are
canonical and their bytes below `n` agree. -/
def Memory.Alike (n : Nat) (m m' : Memory) : Prop :=
  m = m' ∨ (m.wf = true ∧ m'.wf = true ∧ ∀ a, a < n → m.readByte a = m'.readByte a)

section
variable {n a : Nat} {m m' : Memory}

theorem Memory.Alike.readByte (h : Memory.Alike n m m') (ha : a < n) : m.readByte a = m'.readByte a := by
  obtain rfl | ⟨-, -, hbytes⟩ := h
  · rfl
  · exact hbytes a ha

theorem Memory.Alike.readBytes {k : Nat} (h : Memory.Alike n m m') (ha : a + k ≤ n) :
    m.readBytes a k = m'.readBytes a k :=
  Memory.readBytes_congr a k fun _ _ => h.readByte (by omega)

/-- A block written to both memories agrees with itself, so they agree up to its end. -/
theorem Memory.Alike.writeBytes (b : List Byte) (h : Memory.Alike n m m') (ha : a ≤ n) :
    Memory.Alike (max n (a + b.length)) (m.writeBytes a b) (m'.writeBytes a b) := by
  obtain rfl | ⟨hm, hm', hbytes⟩ := h
  · exact .inl rfl
  refine .inr ⟨Memory.wf_writeBytes a b hm, Memory.wf_writeBytes a b hm', fun x hx => ?_⟩
  by_cases hin : a ≤ x ∧ x < a + b.length
  · obtain ⟨k, rfl⟩ := Nat.exists_eq_add_of_le hin.1
    rw [Memory.readByte_writeBytes_inside a b k hm (by omega), Memory.readByte_writeBytes_inside a b k hm' (by omega)]
  · rw [Memory.readByte_writeBytes_outside a b x hm (by omega), Memory.readByte_writeBytes_outside a b x hm' (by omega)]
    exact hbytes x (by omega)

end

/-! ### Contexts -/

theorem Context.SameVisible.refl (x : Context) : x.SameVisible x := ⟨rfl, fun _ => rfl⟩

/-- Looking up in two lists of contexts that differ only where unconstructed. -/
theorem forall₂_sameVisible_lookup {l l' : List Context} (h : List.Forall₂ Context.SameVisible l l') (c : Nat) :
    (l[c]? = none ∧ l'[c]? = none) ∨ ∃ x y, l[c]? = some x ∧ l'[c]? = some y ∧ x.SameVisible y := by
  induction h generalizing c with
  | nil => exact .inl ⟨rfl, rfl⟩
  | cons hxy _ ih =>
    cases c with
    | zero => exact .inr ⟨_, _, rfl, rfl, hxy⟩
    | succ c => simpa using ih c

theorem forall₂_sameVisible_set {l l' : List Context} (h : List.Forall₂ Context.SameVisible l l') (c : Nat) (x : Context) :
    List.Forall₂ Context.SameVisible (l.set c x) (l'.set c x) := by
  induction h generalizing c with
  | nil => exact .nil
  | cons hxy htail ih =>
    cases c with
    | zero => exact .cons (.refl x) htail
    | succ c => exact .cons hxy (ih c)

/-! ### States -/

/-- The two states look the same to every command. `RL` may stand above `WP` where the invariants do not hold, so the bytes agree
below both. -/
structure State.LooksLike (s s' : State) : Prop where
  wp : s.wp = s'.wp
  rp : s.rp = s'.rp
  rl : s.rl = s'.rl
  inbox : s.inbox = s'.inbox
  cfg : s.cfg = s'.cfg
  bytes : Memory.Alike (max s.wp s.rl) s.pkt s'.pkt
  contexts : List.Forall₂ Context.SameVisible s.ctx s'.ctx

/-- States that differ in nothing but the fault register and the past responses look the same. -/
theorem State.looksLike_withHistory (s : State) (f : BitVec 8) (past : List Response) :
    s.LooksLike { s with fsr := f, outbox := past } where
  wp := rfl
  rp := rfl
  rl := rfl
  inbox := rfl
  cfg := rfl
  bytes := .inl rfl
  contexts := List.forall₂_same.mpr fun x _ => .refl x

theorem State.LooksLike.refl (s : State) : s.LooksLike s := s.looksLike_withHistory s.fsr s.outbox

/-- Under the invariants what R23 and R32 call unobservable is not looked at: the cursor's limit is at most `WP`. -/
theorem State.SameVisible.looksLike {s s' : State} (h : s.SameVisible s') (hs : s.MemoryCanonical) (hs' : s'.MemoryCanonical)
    (hptr : s.PointersOrdered) : s.LooksLike s' where
  wp := h.wp
  rp := h.rp
  rl := h.rl
  inbox := h.inbox
  cfg := h.cfg
  bytes := .inr ⟨hs, hs', fun a ha => h.bytes a (by have := hptr.2; omega)⟩
  contexts := h.contexts

section
variable {s s' : State} (h : s.LooksLike s')
include h

theorem State.LooksLike.command : s.command = s'.command := by simp only [State.command, h.inbox]
theorem State.LooksLike.arg0 : s.arg0 = s'.arg0 := congrArg Command.arg0 h.command
theorem State.LooksLike.arg1 : s.arg1 = s'.arg1 := congrArg Command.arg1 h.command
theorem State.LooksLike.din : s.din = s'.din := congrArg Command.din h.command
theorem State.LooksLike.base : s.base = s'.base := congrArg BitVec.toNat h.arg0
theorem State.LooksLike.len : s.len = s'.len := congrArg BitVec.toNat h.arg1
theorem State.LooksLike.avail : s.avail = s'.avail := by simp only [State.avail, h.rl, h.rp]
theorem State.LooksLike.nctx : s.nctx = s'.nctx := h.contexts.length_eq
theorem State.LooksLike.capField : s.capField = s'.capField := by simp only [State.capField, h.cfg]
theorem State.LooksLike.overCapacity (n : Nat) : s.overCapacity n = s'.overCapacity n := by
  simp only [State.overCapacity, h.cfg]
theorem State.LooksLike.integerOperand (n : Nat) : s.integerOperand n = s'.integerOperand n := by
  simp only [State.integerOperand, h.arg0]
theorem State.LooksLike.constructed : s.constructed = s'.constructed := by
  simp only [State.constructed, h.arg0, h.arg1]

theorem State.LooksLike.readBytes {a k : Nat} (hk : a + k ≤ max s.wp s.rl) : s.pkt.readBytes a k = s'.pkt.readBytes a k :=
  h.bytes.readBytes hk

/-- The bytes ahead of the cursor are the same ones. -/
theorem State.LooksLike.readAtCursor {n : Nat} (hn : 0 < n) (ha : n ≤ s.avail) :
    s.pkt.readBytes s.rp n = s'.pkt.readBytes s'.rp n := by
  rw [← h.rp]
  exact h.readBytes (by unfold State.avail at ha; omega)

theorem State.LooksLike.rangeBytes (hr : s.base + s.len ≤ s.wp) : s.rangeBytes = s'.rangeBytes := by
  simp only [State.rangeBytes, ← h.base, ← h.len]
  exact h.readBytes (by omega)

end

end Sys2Proof.Machine
end

section
/-! PROOFS. What a command can do, said once: it makes one of eight changes to the engine's own state and then gives one response. On
two states that look the same it makes the same change and gives the same response, but for the fault register reported. Every
statement about all commands is a case split over the eight changes. -/

namespace Sys2Proof.Machine

/-- The changes commands make to the engine's own state. -/
inductive Change where
  | nothing
  | stick (k : Cause)
  | empty
  | grow (b : List Byte)
  | openCursor (start : Nat)
  | advance (n : Nat)
  | store (a : Nat) (b : List Byte)
  | setContext (c : Nat) (x : Context)

namespace Change

/-- The state with the change made. -/
def apply : Change → State → State
  | .nothing, s => s
  | .stick k, s => s.stick k
  | .empty, s => s.emptied
  | .grow b, s => s.grow b
  | .openCursor start, s => s.openCursor start
  | .advance n, s => s.setRp (s.rp + n)
  | .store a b, s => s.store a b
  | .setContext c x, s => s.setContext c x

/-- What the machine has checked before it makes the change: bytes, cursor and range stay inside what is there (R26, R78, R101), a
context it writes is a constructed one (R30), and the reserved cause is never raised (R262). -/
def Checked (s : State) : Change → Prop
  | .nothing => True
  | .stick k => k ≠ .cipherConfig
  | .empty => True
  | .grow b => s.overCapacity (s.wp + b.length) = false
  | .openCursor start => start ≤ s.wp
  | .advance n => n ≤ s.avail
  | .store a b => a + b.length ≤ s.wp
  | .setContext _ x => x.valid = true ∧ x.key = rep4 x.key.q0

/-- Which commands make the change (R24, R25, R30, R31). -/
def MadeBy (i : Instr) (s : State) : Change → Prop
  | .nothing => True
  | .stick _ => True
  | .empty => i = .pbNew
  | .grow _ => IsAppend i
  | .openCursor _ => i = .pcOpen
  | .advance _ => IsRead i
  | .store _ _ => IsTransform i
  | .setContext c x =>
    i = .csInit c ∨ (i = .csShuffle c ∧ ∃ y, s.ctx[c]? = some y ∧ x.ver = y.ver ∧ x.valid = y.valid)

end Change

/-- The response `r` given, with the fault register reported as it stands. -/
def State.report (s : State) (r : Response) : State := s.answered { r with fsr := s.fsr }

section
variable (s : State) (r : Response)

@[simp] theorem State.report_pkt : (s.report r).pkt = s.pkt := rfl
@[simp] theorem State.report_wp : (s.report r).wp = s.wp := rfl
@[simp] theorem State.report_rp : (s.report r).rp = s.rp := rfl
@[simp] theorem State.report_rl : (s.report r).rl = s.rl := rfl
@[simp] theorem State.report_ctx : (s.report r).ctx = s.ctx := rfl
@[simp] theorem State.report_fsr : (s.report r).fsr = s.fsr := rfl
@[simp] theorem State.report_inbox : (s.report r).inbox = s.inbox.tail := rfl
@[simp] theorem State.report_outbox : (s.report r).outbox = s.outbox ++ [{ r with fsr := s.fsr }] := rfl
@[simp] theorem State.report_cfg : (s.report r).cfg = s.cfg := rfl

end

/-- `s` and `s'` go to `t` and `t'` by one and the same checked change of the command `i`, and one and the same response. -/
def AnswersAlike (i : Instr) (s s' t t' : State) : Prop :=
  ∃ (e : Change) (r : Response), e.MadeBy i s ∧ e.Checked s ∧ t = (e.apply s).report r ∧ t' = (e.apply s').report r

/-! ### One rule per shared operation -/

namespace AnswersAlike

variable {i : Instr} {s s' : State}

/-- A change made and `OK` answered. -/
theorem okWith (e : Change) (hmade : e.MadeBy i s) (hchecked : e.Checked s) {res0 res0' res1 res1' : Field}
    {dout dout' : List Byte} (h0 : res0 = res0') (h1 : res1 = res1') (hd : dout = dout') :
    AnswersAlike i s s' ((e.apply s).okWith res0 res1 dout) ((e.apply s').okWith res0' res1' dout') := by
  subst h0 h1 hd
  exact ⟨e, ⟨statusOk, 0, 0, res0, res1, dout, 0⟩, hmade, hchecked, rfl, rfl⟩

/-- A change made and `OK` answered without a result. -/
theorem ok (e : Change) (hmade : e.MadeBy i s) (hchecked : e.Checked s) :
    AnswersAlike i s s' (e.apply s).ok (e.apply s').ok :=
  okWith e hmade hchecked rfl rfl rfl

/-- `OK` answered and nothing changed. -/
theorem okUnchanged {res0 res0' res1 res1' : Field} {dout dout' : List Byte} (h0 : res0 = res0') (h1 : res1 = res1')
    (hd : dout = dout') : AnswersAlike i s s' (s.okWith res0 res1 dout) (s'.okWith res0' res1' dout') :=
  okWith .nothing trivial trivial h0 h1 hd

theorem raise {k : Cause} {i0 i0' i1 i1' : Field} (hk : k ≠ .cipherConfig) (h0 : i0 = i0') (h1 : i1 = i1') :
    AnswersAlike i s s' (s.raise k i0 i1) (s'.raise k i0' i1') := by
  subst h0 h1
  exact ⟨.stick k, ⟨k.status, i0, i1, 0, 0, [], 0⟩, trivial, hk, rfl, rfl⟩

theorem endOfData (e : Change) (hmade : e.MadeBy i s) (hchecked : e.Checked s) {req req' avail avail' : Nat}
    (hr : req = req') (ha : avail = avail') :
    AnswersAlike i s s' ((e.apply s).endOfData req avail) ((e.apply s').endOfData req' avail') := by
  subst hr ha
  exact ⟨e, ⟨statusEndOfData, fieldOfNat req, fieldOfNat avail, 0, 0, [], 0⟩, hmade, hchecked, rfl, rfl⟩

variable (h : s.LooksLike s')
include h

theorem append (hi : IsAppend i) {b b' : List Byte} (hb : b = b') : AnswersAlike i s s' (s.append b) (s'.append b') := by
  subst hb
  have hover : s.overCapacity (s.wp + b.length) = s'.overCapacity (s'.wp + b.length) := by rw [h.overCapacity, h.wp]
  obtain ⟨ho, e⟩ | ⟨ho, e⟩ := s.append_cases b <;> obtain ⟨ho', e'⟩ | ⟨ho', e'⟩ := s'.append_cases b
  · rw [e, e']
    exact raise (by decide) (by rw [h.wp]) h.capField
  · simp [ho, ho'] at hover
  · simp [ho, ho'] at hover
  · rw [e, e']
    exact ok (.grow b) hi ho

theorem withRange {k k' : State} (hk : s.base + s.len ≤ s.wp → AnswersAlike i s s' k k') :
    AnswersAlike i s s' (s.withRange k) (s'.withRange k') := by
  obtain ⟨hr, e⟩ | ⟨hr, e⟩ := s.withRange_cases k <;> obtain ⟨hr', e'⟩ | ⟨hr', e'⟩ := s'.withRange_cases k'
  · rw [e, e']
    exact raise (by decide) h.arg0 h.arg1
  · have := h.base; have := h.len; have := h.wp; omega
  · have := h.base; have := h.len; have := h.wp; omega
  · rw [e, e']
    exact hk hr

theorem transformRange (hi : IsTransform i) {f f' : List Byte → List Byte} (hf : f = f')
    (hlen : ∀ b, (f b).length = b.length) : AnswersAlike i s s' (s.transformRange f) (s'.transformRange f') := by
  subst hf
  refine withRange h fun hr => ?_
  rw [← h.base, ← h.rangeBytes hr]
  exact ok (.store s.base (f s.rangeBytes)) hi (by simpa [Change.Checked, hlen, State.rangeBytes] using hr)

theorem withContext {c : Nat} {k k' : Context → State}
    (hk : ∀ x y, s.ctx[c]? = some x → x.SameVisible y → AnswersAlike i s s' (k x) (k' y)) :
    AnswersAlike i s s' (s.withContext c k) (s'.withContext c k') := by
  unfold State.withContext
  obtain ⟨hx, hy⟩ | ⟨x, y, hx, hy, hxy⟩ := forall₂_sameVisible_lookup h.contexts c
  · simp only [hx, hy]
    exact raise (by decide) rfl (by rw [h.nctx])
  · simp only [hx, hy]
    exact hk x y hx hxy

/-- A valid context is the same in both states. -/
theorem withValidContext {c : Nat} {k k' : Context → State}
    (hk : ∀ x, s.ctx[c]? = some x → x.valid = true → AnswersAlike i s s' (k x) (k' x)) :
    AnswersAlike i s s' (s.withValidContext c k) (s'.withValidContext c k') := by
  refine withContext h fun x y hx ⟨hvalid, hsame⟩ => ?_
  simp only [← hvalid]
  split
  · next hv =>
    obtain rfl := hsame hv
    exact hk x hx hv
  · exact raise (by decide) rfl rfl

theorem readFixed {n : Nat} (hn : 0 < n) {k k' : Nat → State → State}
    (hk : ∀ v, n ≤ s.avail → AnswersAlike i s s' (k v (s.setRp (s.rp + n))) (k' v (s'.setRp (s'.rp + n)))) :
    AnswersAlike i s s' (s.readFixed n k) (s'.readFixed n k') := by
  have havail := h.avail
  obtain ⟨ha, e⟩ | ⟨ha, e⟩ := s.readFixed_cases n k <;> obtain ⟨ha', e'⟩ | ⟨ha', e'⟩ := s'.readFixed_cases n k'
  · rw [e, e']
    exact endOfData .nothing trivial trivial rfl havail
  · omega
  · omega
  · rw [e, e', ← h.readAtCursor hn ha]
    exact hk _ ha

/-- A fixed-width integer read: the value, with the cursor advanced past it. -/
theorem decodeInteger (hi : IsRead i) {n : Nat} (hn : 0 < n) (sgn : Bool) :
    AnswersAlike i s s' (s.decodeInteger n sgn) (s'.decodeInteger n sgn) :=
  readFixed h hn fun _ ha => okWith (.advance n) hi ha rfl rfl rfl

/-- The cursor advanced past the item, or past its length field alone. -/
theorem readPrefixed (hi : IsRead i) {k k' : Nat → Nat → State → State}
    (hk : ∀ len, 2 + len ≤ s.avail → AnswersAlike i s s' (k (s.rp + 2) len (s.setRp (s.rp + (2 + len))))
      (k' (s'.rp + 2) len (s'.setRp (s'.rp + (2 + len))))) :
    AnswersAlike i s s' (s.readPrefixed k) (s'.readPrefixed k') := by
  refine readFixed h (by decide) fun len ha => ?_
  have hrest : (s.setRp (s.rp + 2)).avail = (s'.setRp (s'.rp + 2)).avail := by
    simp only [State.avail, State.setRp_rp, State.setRp_rl, h.rp, h.rl]
  simp only [← hrest]
  split
  · exact endOfData (.advance 2) hi ha rfl rfl
  · next hlen =>
    have hitem : 2 + len ≤ s.avail := by
      simp only [State.avail, State.setRp_rp, State.setRp_rl] at hlen ha ⊢
      omega
    have hread := hk len hitem
    simp only [← Nat.add_assoc] at hread
    exact hread

end AnswersAlike

end Sys2Proof.Machine
end

section
/-! PROOFS. Every command, and every step, makes one checked change and gives one response (`AnswersAlike`). -/

namespace Sys2Proof.Machine

/-! ### The frame `CS_ENCRYPT` writes -/

/-- What `CS_ENCRYPT` leaves in its range: the header, then the transformed payload (R218). The payload is read after the header is
stored. -/
def State.encryptedFrame (s : State) (x : Context) : List Byte :=
  (hdrBuild x.key x.ver (s.len - 4)).toList ++ encryptPayload s.cfg x.key
    ((s.pkt.writeBytes s.base (hdrBuild x.key x.ver (s.len - 4)).toList).readBytes (s.base + 4) (s.len - 4))

theorem State.encryptRange_eq_store (s : State) (x : Context) :
    s.encryptRange x = s.store s.base (s.encryptedFrame x) := by
  simp only [State.store, State.encryptedFrame, Memory.writeBytes_append]
  rfl

theorem State.length_encryptedFrame (s : State) (x : Context) (h : 4 ≤ s.len) : (s.encryptedFrame x).length = s.len := by
  simp only [State.encryptedFrame, List.length_append, Bytes4.length_toList, length_encryptPayload, Memory.length_readBytes]
  omega

theorem State.LooksLike.encryptedFrame {s s' : State} (h : s.LooksLike s') (x : Context) (hlen : 4 ≤ s.len)
    (hr : s.base + s.len ≤ s.wp) : s.encryptedFrame x = s'.encryptedFrame x := by
  simp only [State.encryptedFrame, ← h.base, ← h.len, ← h.cfg]
  have hafter := h.bytes.writeBytes (hdrBuild x.key x.ver (s.len - 4)).toList (a := s.base) (by omega)
  rw [hafter.readBytes (by omega)]

/-! ### The commands -/

/-- Every command answers alike from states that look the same: one case per command, each by the rule of the operation it is
written with. -/
theorem exec_alike (i : Instr) {s s' : State} (h : s.LooksLike s') :
    ∃ t t', exec i s = .next t ∧ exec i s' = .next t' ∧ AnswersAlike i s s' t t' := by
  cases i with
  | pbNew => exact ⟨_, _, rfl, rfl, .ok .empty rfl trivial⟩
  | pbRaw => exact ⟨_, _, rfl, rfl, .append h (by simp [IsAppend]) h.din⟩
  | pbEnc1 sgn => exact ⟨_, _, rfl, rfl, .append h (by simp [IsAppend]) (h.integerOperand 1)⟩
  | pbEnc2 sgn => exact ⟨_, _, rfl, rfl, .append h (by simp [IsAppend]) (h.integerOperand 2)⟩
  | pbEnc4 sgn => exact ⟨_, _, rfl, rfl, .append h (by simp [IsAppend]) (h.integerOperand 4)⟩
  | pbEnc8 sgn => exact ⟨_, _, rfl, rfl, .append h (by simp [IsAppend]) (h.integerOperand 8)⟩
  | pbLpbuf => exact ⟨_, _, rfl, rfl, .append h (by simp [IsAppend]) (congrArg lengthPrefixed h.din)⟩
  | pbLpstr => exact ⟨_, _, rfl, rfl, .append h (by simp [IsAppend]) (congrArg lengthPrefixed h.din)⟩
  | pbDump => exact ⟨_, _, rfl, rfl, .withRange h fun hr => .okUnchanged rfl rfl (h.rangeBytes hr)⟩
  | pbLen => exact ⟨_, _, rfl, rfl, .okUnchanged (congrArg fieldOfNat h.wp) rfl rfl⟩
  | pcOpen =>
    refine ⟨_, _, rfl, rfl, ?_⟩
    rw [← h.wp, ← h.base, ← h.arg0]
    split
    · exact .raise (by decide) rfl rfl
    · next hstart => exact .ok (.openCursor s.base) rfl (Nat.le_of_not_lt hstart)
  | pcDec1 sgn => exact ⟨_, _, rfl, rfl, .decodeInteger h (by simp [IsRead]) (by decide) sgn⟩
  | pcDec2 sgn => exact ⟨_, _, rfl, rfl, .decodeInteger h (by simp [IsRead]) (by decide) sgn⟩
  | pcDec4 sgn => exact ⟨_, _, rfl, rfl, .decodeInteger h (by simp [IsRead]) (by decide) sgn⟩
  | pcDec8 sgn => exact ⟨_, _, rfl, rfl, .decodeInteger h (by simp [IsRead]) (by decide) sgn⟩
  | pcLpbuf =>
    refine ⟨_, _, rfl, rfl, .readPrefixed h (by simp [IsRead]) fun len ha => ?_⟩
    exact .okWith (.advance (2 + len)) (by simp [Change.MadeBy, IsRead]) ha (by rw [h.rp]) rfl rfl
  | pcLpstr =>
    refine ⟨_, _, rfl, rfl, .readPrefixed h (by simp [IsRead]) fun len ha => ?_⟩
    have hitem : s.pkt.readBytes (s.rp + 2) len = s'.pkt.readBytes (s'.rp + 2) len := by
      rw [← h.rp]
      exact h.readBytes (by unfold State.avail at ha; omega)
    exact .okWith (.advance (2 + len)) (by simp [Change.MadeBy, IsRead]) ha rfl rfl hitem
  | pcRemain => exact ⟨_, _, rfl, rfl, .okUnchanged (congrArg fieldOfNat h.avail) rfl rfl⟩
  | crc32 => exact ⟨_, _, rfl, rfl, .okUnchanged (by rw [h.cfg, h.arg0, h.din]) rfl rfl⟩
  | obfFwd => exact ⟨_, _, rfl, rfl, .transformRange h (by simp [IsTransform]) (by rw [h.cfg]) (length_obfFwd _)⟩
  | obfInv => exact ⟨_, _, rfl, rfl, .transformRange h (by simp [IsTransform]) (by rw [h.cfg]) (length_obfInv _)⟩
  | bclApply c =>
    exact ⟨_, _, rfl, rfl, .withValidContext h fun x _ _ =>
      .transformRange h (by simp [IsTransform]) (by rw [h.cfg]) (length_bcl _ x.key)⟩
  | hdrGetlen => exact ⟨_, _, rfl, rfl, .okUnchanged (by rw [h.arg0]) rfl rfl⟩
  | hdrBuild c =>
    exact ⟨_, _, rfl, rfl, .withValidContext h fun _ _ _ => .okUnchanged (by rw [h.arg0]) rfl rfl⟩
  | csInit c =>
    refine ⟨_, _, rfl, rfl, .withContext h fun _ _ _ _ => ?_⟩
    rw [← h.constructed]
    exact .ok (.setContext c s.constructed) (.inl rfl) ⟨rfl, rfl⟩
  | csEncrypt c =>
    refine ⟨_, _, rfl, rfl, .withValidContext h fun x _ _ => .withRange h fun hr => ?_⟩
    rw [← h.len, ← h.arg1]
    split
    · exact .raise (by decide) rfl rfl
    · next hlen =>
      have hlen : 4 ≤ s.len := Nat.le_of_not_lt hlen
      rw [s.encryptRange_eq_store, s'.encryptRange_eq_store, ← h.encryptedFrame x hlen hr, ← h.base]
      exact .ok (.store s.base (s.encryptedFrame x)) (by simp [Change.MadeBy, IsTransform])
        (by simpa only [Change.Checked, s.length_encryptedFrame x hlen] using hr)
  | csDecrypt c =>
    exact ⟨_, _, rfl, rfl, .withValidContext h fun x _ _ =>
      .transformRange h (by simp [IsTransform]) (by rw [h.cfg]) (length_decryptPayload _ x.key)⟩
  | csShuffle c =>
    refine ⟨_, _, rfl, rfl, .withValidContext h fun x hx hvalid => ?_⟩
    rw [← h.cfg]
    exact .okWith (.setContext c { x with key := rep4 (shuffle s.cfg x.key) }) (.inr ⟨rfl, x, hx, rfl, rfl⟩) ⟨hvalid, rfl⟩
      rfl rfl rfl
  | csGetkey c => exact ⟨_, _, rfl, rfl, .withValidContext h fun _ _ _ => .okUnchanged rfl rfl rfl⟩
  | csGetver c => exact ⟨_, _, rfl, rfl, .withValidContext h fun _ _ _ => .okUnchanged rfl rfl rfl⟩

/-- What a command can do: one checked change of its own, and one response. -/
theorem exec_cases {i : Instr} {s t : State} (h : exec i s = .next t) :
    ∃ (e : Change) (r : Response), e.MadeBy i s ∧ e.Checked s ∧ t = (e.apply s).report r := by
  obtain ⟨u, _, hu, -, e, r, hmade, hchecked, rfl, -⟩ := exec_alike i (.refl s)
  obtain rfl : (e.apply s).report r = t := by simpa [hu] using h
  exact ⟨e, r, hmade, hchecked, rfl⟩

/-! ### The step -/

/-- A step with nothing issued changes nothing; any other makes one checked change and gives one response, the same ones from a
state that looks the same. -/
theorem step_alike {s s' t : State} (h : s.LooksLike s') (ht : step s = .next t) :
    (t = s ∧ step s' = .next s') ∨
    ∃ (e : Change) (r : Response), e.Checked s ∧ t = (e.apply s).report r ∧ step s' = .next ((e.apply s').report r) := by
  unfold step at ht ⊢
  rw [← h.inbox]
  cases hin : s.inbox with
  | nil =>
    simp only [hin] at ht
    cases ht
    exact .inl ⟨rfl, rfl⟩
  | cons cmd rest =>
    right
    simp only [hin] at ht ⊢
    cases hdec : decode cmd.cw with
    | ok i =>
      simp only [hdec] at ht ⊢
      obtain ⟨u, u', hu, hu', e, r, -, hchecked, rfl, rfl⟩ := exec_alike i h
      obtain rfl : (e.apply s).report r = t := by simpa [hu] using ht
      exact ⟨e, r, hchecked, rfl, hu'⟩
    | error why =>
      simp only [hdec] at ht ⊢
      obtain rfl : s.raise .illegalCommand (s.command.cw.setWidth 64) 0 = t := by simpa [raiseIllegal] using ht
      refine ⟨.stick .illegalCommand, ⟨Cause.illegalCommand.status, s.command.cw.setWidth 64, 0, 0, 0, [], 0⟩,
        by simp [Change.Checked], rfl, ?_⟩
      rw [raiseIllegal, ← h.command]
      rfl

/-- What a step can do: nothing, or one checked change and one response. -/
theorem step_cases {s t : State} (h : step s = .next t) :
    t = s ∨ ∃ (e : Change) (r : Response), e.Checked s ∧ t = (e.apply s).report r := by
  obtain ⟨rfl, -⟩ | ⟨e, r, hchecked, rfl, -⟩ := step_alike (.refl s) h
  · exact .inl rfl
  · exact .inr ⟨e, r, hchecked, rfl⟩

end Sys2Proof.Machine
end

section
/-! PROOFS. The invariants of spec/10_state.md R39 hold after reset and are kept by every checked change, so by every step. -/

namespace Sys2Proof.Machine

/-! ### What the checks of the machine say -/

theorem State.overCapacity_eq_false_iff (s : State) (n : Nat) :
    s.overCapacity n = false ↔ ∀ cap, s.cfg.pktCap = some cap → n ≤ cap := by
  unfold State.overCapacity
  cases s.cfg.pktCap <;> simp

theorem State.withinCapacity_iff (s : State) :
    s.withinCapacity = true ↔ ∀ cap, s.cfg.pktCap = some cap → s.wp ≤ cap ∧ s.pkt.below cap = true := by
  unfold State.withinCapacity
  cases s.cfg.pktCap <;> simp

/-- Setting the sticky bit of a cause that can happen leaves bits 6 and 7 alone (R33, R262). -/
theorem getLsbD_setSticky_reserved (fsr : BitVec 8) {k : Cause} (hk : k ≠ .cipherConfig) :
    (setSticky fsr k).getLsbD 6 = fsr.getLsbD 6 ∧ (setSticky fsr k).getLsbD 7 = fsr.getLsbD 7 := by
  cases k with
  | cipherConfig => exact absurd rfl hk
  | _ => simp [setSticky, Cause.bit]

/-- Setting a sticky bit keeps every bit that is set. -/
theorem and_setSticky (fsr : BitVec 8) (k : Cause) : fsr &&& setSticky fsr k = fsr := by
  unfold setSticky
  exact BitVec.eq_of_getLsbD_eq fun i _ => by simp +contextual

/-! ### What a change keeps -/

namespace Change

variable (e : Change) (s : State)

@[simp] theorem apply_cfg : (e.apply s).cfg = s.cfg := by cases e <;> rfl
@[simp] theorem apply_inbox : (e.apply s).inbox = s.inbox := by cases e <;> rfl
@[simp] theorem apply_outbox : (e.apply s).outbox = s.outbox := by cases e <;> rfl

@[simp] theorem length_apply_ctx : (e.apply s).ctx.length = s.ctx.length := by
  cases e with
  | setContext c x => simp [apply]
  | _ => rfl

/-- No change clears a fault bit. -/
theorem and_apply_fsr : s.fsr &&& (e.apply s).fsr = s.fsr := by
  cases e with
  | stick k => exact and_setSticky s.fsr k
  | _ => exact BitVec.and_self

variable {e s}

/-- A context is left alone, or replaced by a constructed one. -/
theorem apply_ctx_cases (he : e.Checked s) {x : Context} (hx : x ∈ (e.apply s).ctx) :
    x ∈ s.ctx ∨ (x.valid = true ∧ x.key = rep4 x.key.q0) := by
  cases e with
  | setContext c y =>
    obtain hmem | rfl := List.mem_or_eq_of_mem_set hx
    · exact .inl hmem
    · exact .inr he
  | _ => exact .inl hx

theorem apply_memoryCanonical (h : s.MemoryCanonical) : (e.apply s).MemoryCanonical := by
  cases e with
  | grow b => exact s.wf_grow b h
  | store a b => exact s.wf_store a b h
  | _ => exact h

theorem apply_pointersOrdered (he : e.Checked s) (h : s.PointersOrdered) : (e.apply s).PointersOrdered := by
  obtain ⟨hrp, hrl⟩ := h
  cases e with
  | empty => exact ⟨le_rfl, le_rfl⟩
  | grow b => exact ⟨hrp, Nat.le_add_right_of_le hrl⟩
  | openCursor start => exact ⟨he, le_rfl⟩
  | advance n =>
    have hn : n ≤ s.rl - s.rp := he
    exact ⟨by simp only [apply, State.setRp_rp, State.setRp_rl]; omega, hrl⟩
  | _ => exact ⟨hrp, hrl⟩

theorem apply_withinCapacity (he : e.Checked s) (h : s.withinCapacity = true) : (e.apply s).withinCapacity = true := by
  rw [State.withinCapacity_iff] at h ⊢
  intro cap hcap
  rw [apply_cfg] at hcap
  obtain ⟨hwp, hbelow⟩ := h cap hcap
  cases e with
  | empty => exact ⟨Nat.zero_le cap, hbelow⟩
  | grow b =>
    have hroom : s.wp + b.length ≤ cap := (s.overCapacity_eq_false_iff _).mp he cap hcap
    exact ⟨hroom, Memory.below_writeBytes s.wp b hroom hbelow⟩
  | store a b => exact ⟨hwp, Memory.below_writeBytes a b (le_trans he hwp) hbelow⟩
  | _ => exact ⟨hwp, hbelow⟩

theorem apply_keysRepeated (he : e.Checked s) (h : s.KeysRepeated) : (e.apply s).KeysRepeated := by
  intro x hx hvalid
  obtain hmem | ⟨-, hkey⟩ := apply_ctx_cases he hx
  · exact h x hmem hvalid
  · exact hkey

theorem apply_fsrReservedZero (he : e.Checked s) (h : s.FsrReservedZero) : (e.apply s).FsrReservedZero := by
  cases e with
  | stick k =>
    obtain ⟨h6, h7⟩ := getLsbD_setSticky_reserved s.fsr he
    exact ⟨h6.trans h.1, h7.trans h.2⟩
  | _ => exact h

theorem apply_inv (he : e.Checked s) (h : s.Inv) : (e.apply s).Inv := by
  obtain ⟨hmem, hptr, hcap, hlegal, hcount, hkeys, hfsr⟩ := h
  exact ⟨apply_memoryCanonical hmem, apply_pointersOrdered he hptr, apply_withinCapacity he hcap,
    by rwa [apply_cfg], by simpa only [State.ContextsCounted, length_apply_ctx] using hcount,
    apply_keysRepeated he hkeys, apply_fsrReservedZero he hfsr⟩

/-- A valid context stays valid. -/
theorem apply_keeps_valid (he : e.Checked s) {c : Nat} {x : Context} (hx : s.ctx[c]? = some x) (hvalid : x.valid = true) :
    ∃ y, (e.apply s).ctx[c]? = some y ∧ y.valid = true := by
  cases e with
  | setContext d y =>
    obtain rfl | hne := eq_or_ne d c
    · have hlt : d < s.ctx.length := (List.getElem?_eq_some_iff.mp hx).1
      exact ⟨y, by simp [apply, hlt], he.1⟩
    · exact ⟨x, by simp [apply, hne, hx], hvalid⟩
  | _ => exact ⟨x, hx, hvalid⟩

end Change

/-! ### Reset -/

theorem State.resetWith_inv (p : Config.Params) (n : Nat) (hp : p.Legal) (h1 : 1 ≤ n) (h16 : n ≤ 16) :
    (State.resetWith p n).Inv := by
  refine ⟨Memory.wf_nil, ⟨le_rfl, le_rfl⟩, ?_, hp, by simp [State.ContextsCounted, h1, h16], ?_, by simp, by simp⟩
  · rw [State.withinCapacity_iff]
    exact fun cap _ => ⟨Nat.zero_le cap, rfl⟩
  · intro x hx hvalid
    obtain rfl := List.eq_of_mem_replicate hx
    exact absurd hvalid (by decide)

theorem defaultParams_legal : defaultParams.Legal := by
  rw [params_legal_iff]
  exact ⟨by decide, by decide⟩

/-- Settles O20: the fields are `resetWith`'s own, and every context is the one no `CS_INIT` has written. -/
theorem resetClearsTheEngine : Obligations.ResetClearsTheEngine := by
  intro p n
  refine ⟨rfl, rfl, rfl, rfl, by simp, fun x hx => ?_⟩
  obtain rfl := List.eq_of_mem_replicate hx
  rfl

/-- Settles O21: the defaults are legal parameters and two contexts. -/
theorem resetMeetsTheInvariants : Obligations.ResetMeetsTheInvariants :=
  ⟨State.resetWith_inv, State.resetWith_inv defaultParams defaultNctx defaultParams_legal (by decide) (by decide)⟩

/-! ### Every step -/

/-- Settles O22: every checked change keeps each invariant, and giving the response touches none. -/
theorem stepKeepsTheInvariants : Obligations.StepKeepsTheInvariants := by
  intro s t hinv hstep
  obtain rfl | ⟨e, r, he, rfl⟩ := step_cases hstep
  · exact hinv
  · exact Change.apply_inv he hinv

/-- Settles O12: the only change of `FSR` sets a bit, and a context is only replaced by a valid one. -/
theorem stepsNeverClearFlags : Obligations.StepsNeverClearFlags := by
  intro s t hstep
  obtain rfl | ⟨e, r, he, rfl⟩ := step_cases hstep
  · exact ⟨BitVec.and_self, fun c x hx hvalid => ⟨x, hx, hvalid⟩⟩
  · exact ⟨e.and_apply_fsr s, fun c x hx hvalid => Change.apply_keeps_valid he hx hvalid⟩

/-- Settles O16: no change touches the parameters or the number of contexts. -/
theorem parametersNeverChange : Obligations.ParametersNeverChange := by
  intro s t hstep
  obtain rfl | ⟨e, r, -, rfl⟩ := step_cases hstep
  · exact ⟨rfl, rfl⟩
  · exact ⟨e.apply_cfg s, e.length_apply_ctx s⟩

end Sys2Proof.Machine
end

section
/-! PROOFS. Which commands move the pointers and write the contexts (spec/10_state.md R24, R25, R30, R31): a split over the changes a
command makes. -/

namespace Sys2Proof.Machine

namespace Change

variable {e : Change} {i : Instr} {s : State}

/-- A context changes only by `CS_INIT` and `CS_SHUFFLE` of its own number. -/
theorem apply_ctx_frame (he : e.MadeBy i s) {c : Nat} (hinit : i ≠ .csInit c) (hshuffle : i ≠ .csShuffle c) :
    (e.apply s).ctx[c]? = s.ctx[c]? := by
  cases e with
  | setContext d x =>
    have hne : d ≠ c := by
      rintro rfl
      obtain rfl | ⟨rfl, -⟩ := he
      · exact hinit rfl
      · exact hshuffle rfl
    simp [apply, hne]
  | _ => rfl

/-- `CS_SHUFFLE` keeps its context's `VER` and `VALID`. -/
theorem apply_ctx_of_csShuffle {c : Nat} (he : e.MadeBy (.csShuffle c) s) {x : Context} (hx : s.ctx[c]? = some x) :
    ∃ y, (e.apply s).ctx[c]? = some y ∧ y.ver = x.ver ∧ y.valid = x.valid := by
  cases e with
  | setContext d y =>
    obtain hinit | ⟨hd, z, hz, hver, hvalid⟩ := he
    · cases hinit
    · cases hd
      obtain rfl : z = x := by simpa [hx] using hz.symm
      have hlt : c < s.ctx.length := (List.getElem?_eq_some_iff.mp hx).1
      exact ⟨y, by simp [apply, hlt], hver, hvalid⟩
  | _ => exact ⟨x, hx, rfl, rfl⟩

/-- `WP` falls only by `PB_NEW` and grows only by an append (R24). -/
theorem apply_wp_moves (he : e.MadeBy i s) :
    (i ≠ .pbNew → s.wp ≤ (e.apply s).wp) ∧ (¬ IsAppend i → (e.apply s).wp ≤ s.wp) := by
  cases e with
  | empty => exact ⟨fun hne => absurd he hne, fun _ => Nat.zero_le s.wp⟩
  | grow b => exact ⟨fun _ => Nat.le_add_right s.wp b.length, fun hne => absurd he hne⟩
  | _ => exact ⟨fun _ => le_rfl, fun _ => le_rfl⟩

/-- Without `PC_OPEN` and `PB_NEW` the limit stays and the position moves forward, by the cursor reads (R25, R135 a). -/
theorem apply_cursor_moves (he : e.MadeBy i s) (hopen : i ≠ .pcOpen) (hnew : i ≠ .pbNew) :
    s.rp ≤ (e.apply s).rp ∧ (e.apply s).rl = s.rl ∧ (¬ IsRead i → (e.apply s).rp = s.rp) := by
  cases e with
  | empty => exact absurd he hnew
  | openCursor start => exact absurd he hopen
  | advance n => exact ⟨Nat.le_add_right s.rp n, rfl, fun hne => absurd he hne⟩
  | _ => exact ⟨le_rfl, rfl, fun _ => rfl⟩

end Change

/-- Settles O13, by the change that writes a context. -/
theorem contextsWrittenOnlyByTheirCommands : Obligations.ContextsWrittenOnlyByTheirCommands := by
  intro i s t hexec
  obtain ⟨e, r, he, -, rfl⟩ := exec_cases hexec
  refine ⟨e.length_apply_ctx s, fun c => Change.apply_ctx_frame he, ?_⟩
  rintro c x rfl hx
  exact Change.apply_ctx_of_csShuffle he hx

/-- Settles O14, by the changes that move a pointer. -/
theorem pointersMoveOnlyByTheirCommands : Obligations.PointersMoveOnlyByTheirCommands := by
  intro i s t hexec
  obtain ⟨e, r, he, -, rfl⟩ := exec_cases hexec
  obtain ⟨hdown, hup⟩ := Change.apply_wp_moves he
  refine ⟨hdown, hup, fun hopen hnew => ?_, fun hopen hnew => ?_⟩
  · obtain ⟨hrp, hrl, -⟩ := Change.apply_cursor_moves he hopen hnew
    exact ⟨hrp, hrl⟩
  · obtain ⟨-, -, hstay⟩ := Change.apply_cursor_moves he hopen hnew
    exact hstay

end Sys2Proof.Machine
end

section
/-! PROOFS. What no command looks at: the past responses (R21), the fault register (R33), the bytes at or above `WP` and the contents of
unconstructed contexts (R23, R32). By `step_alike` two states that look the same take the same change and give the same response; it
remains that the change commutes with the difference. -/

namespace Sys2Proof.Machine

/-! ### The past responses and the fault register -/

/-- A change neither reads nor writes the past responses. -/
theorem Change.apply_withOutbox (e : Change) (s : State) (past : List Response) :
    e.apply { s with outbox := past } = { e.apply s with outbox := past } := by
  cases e <;> rfl

/-- A change reads the fault register only to set a bit of it. -/
theorem Change.apply_withFsr (e : Change) (s : State) (f : BitVec 8) :
    e.apply { s with fsr := f } = { e.apply s with fsr := (e.apply { s with fsr := f }).fsr } := by
  cases e <;> rfl

/-- Settles O17: with other past responses the step makes the same change, which carries them along. -/
theorem stepIgnoresPastResponses : Obligations.StepIgnoresPastResponses := by
  intro s t past hstep
  obtain ⟨rfl, hidle⟩ | ⟨e, r, -, rfl, hstep'⟩ := step_alike (s.looksLike_withHistory s.fsr past) hstep
  · simpa using hidle
  · rw [hstep', Change.apply_withOutbox]
    simp [State.report, State.answered]

/-- Settles O18: with another fault register the step makes the same change and gives the same response but for `FSR`. -/
theorem faultRegisterAffectsNoCommand : Obligations.FaultRegisterAffectsNoCommand := by
  intro s t f hstep
  obtain ⟨rfl, hidle⟩ | ⟨e, r, -, rfl, hstep'⟩ := step_alike (s.looksLike_withHistory f s.outbox) hstep
  · exact ⟨_, hidle, rfl, rfl⟩
  · refine ⟨_, hstep', ?_, by simp⟩
    rw [Change.apply_withFsr]
    rfl

/-! ### The bytes above the Packet and the unconstructed contexts -/

/-- A checked change writes only below the new `WP`, and a context it writes it writes alike. -/
theorem State.SameVisible.apply {s s' : State} (h : s.SameVisible s') (hs : s.MemoryCanonical) (hs' : s'.MemoryCanonical)
    {e : Change} (he : e.Checked s) : (e.apply s).SameVisible (e.apply s') := by
  have hbytes : Memory.Alike s.wp s.pkt s'.pkt := .inr ⟨hs, hs', h.bytes⟩
  cases e with
  | nothing => exact h
  | stick k => exact { h with fsr := congrArg (setSticky · k) h.fsr }
  | empty =>
    exact { h with wp := rfl, rp := rfl, rl := rfl, bytes := fun a ha => absurd ha (Nat.not_lt_zero a) }
  | grow b =>
    refine { h with wp := congrArg (· + b.length) h.wp, bytes := fun a ha => ?_ }
    have hgrown := hbytes.writeBytes b le_rfl
    simp only [Change.apply, State.grow_pkt, State.grow_wp, ← h.wp] at ha ⊢
    exact hgrown.readByte (by omega)
  | openCursor start => exact { h with rp := rfl, rl := h.wp }
  | advance n => exact { h with rp := congrArg (· + n) h.rp }
  | store a b =>
    have hin : a + b.length ≤ s.wp := he
    have hstored := hbytes.writeBytes b (a := a) (by omega)
    exact { h with bytes := fun x hx => hstored.readByte (lt_max_of_lt_left hx) }
  | setContext c x => exact { h with contexts := forall₂_sameVisible_set h.contexts c x }

theorem State.SameVisible.report {s s' : State} (h : s.SameVisible s') (r : Response) :
    (s.report r).SameVisible (s'.report r) :=
  { h with
    inbox := congrArg List.tail h.inbox
    outbox := by rw [State.report_outbox, State.report_outbox, h.outbox, h.fsr] }

/-- Settles O19: under the invariants the two states look the same, so they take the same change and give the same response. -/
theorem unwrittenStateIsUnobservable : Obligations.UnwrittenStateIsUnobservable := by
  intro s s' t ⟨hmem, hptr, _⟩ ⟨hmem', _⟩ hvisible hstep
  obtain ⟨rfl, hidle⟩ | ⟨e, r, he, rfl, hstep'⟩ := step_alike (hvisible.looksLike hmem hmem' hptr) hstep
  · exact ⟨s', hidle, hvisible⟩
  · exact ⟨_, hstep', (hvisible.apply hmem hmem' he).report r⟩

end Sys2Proof.Machine
end

section
/-! PROOFS. The step runs the decoded command (spec/20_memory.md R61), and where a command writes `PKT` (spec/20_memory.md R53,
spec/10_state.md R37): a split over the changes a command makes, of which only `grow` and `store` write it. -/

namespace Sys2Proof.Machine

/-! ### The step -/

/-- Settles O5: of the step's branches, an issued command whose word decodes takes the one that is the command's meaning. -/
theorem stepRunsDecodedCommand : Obligations.StepRunsDecodedCommand := by
  intro s cmd rest i hin hdec
  simp only [step, hin, hdec]

/-! ### The bytes a command writes -/

/-- An append is not an in-place transform. -/
theorem not_isTransform_of_isAppend {i : Instr} (h : IsAppend i) : ¬ IsTransform i := by
  obtain rfl | ⟨_, rfl⟩ | ⟨_, rfl⟩ | ⟨_, rfl⟩ | ⟨_, rfl⟩ | rfl | rfl := h <;> simp [IsTransform]

namespace Change

variable {e : Change} {i : Instr} {s : State} {a : Nat}

/-- A change writes no byte at or above the larger of the old and the new `WP`: an append's bytes end at the new one, a stored range
at or below the old one (R53). -/
theorem apply_readByte_of_wp_le (he : e.Checked s) (hm : s.MemoryCanonical) (hold : s.wp ≤ a) (hnew : (e.apply s).wp ≤ a) :
    (e.apply s).pkt.readByte a = s.pkt.readByte a := by
  cases e with
  | grow b => exact Memory.readByte_writeBytes_outside s.wp b a hm (.inr hnew)
  | store lo b => exact Memory.readByte_writeBytes_outside lo b a hm (.inr (le_trans he hold))
  | _ => rfl

/-- An append keeps the bytes of the Packet it adds to (R101). -/
theorem apply_readByte_of_isAppend (he : e.MadeBy i s) (hi : IsAppend i) (hm : s.MemoryCanonical) (ha : a < s.wp) :
    (e.apply s).pkt.readByte a = s.pkt.readByte a := by
  cases e with
  | grow b => exact Memory.readByte_writeBytes_outside s.wp b a hm (.inl ha)
  | store lo b => exact absurd he (not_isTransform_of_isAppend hi)
  | _ => rfl

/-- Only the appends and the in-place transforms write `PKT` (R37). -/
theorem apply_pkt_of_not_writer (he : e.MadeBy i s) (happend : ¬ IsAppend i) (htransform : ¬ IsTransform i) :
    (e.apply s).pkt = s.pkt := by
  cases e with
  | grow b => exact absurd he happend
  | store lo b => exact absurd he htransform
  | _ => rfl

end Change

/-- Settles O15, by the changes that write a byte. -/
theorem noWriteBeyondThePacket : Obligations.NoWriteBeyondThePacket := by
  intro i s t ⟨hmem, _⟩ hexec
  obtain ⟨e, r, hmade, hchecked, rfl⟩ := exec_cases hexec
  exact ⟨fun _ => Change.apply_readByte_of_wp_le hchecked hmem, fun hi _ => Change.apply_readByte_of_isAppend hmade hi hmem,
    Change.apply_pkt_of_not_writer hmade⟩

end Sys2Proof.Machine
end

section
/-! PROOFS. The command word and its fields (spec/30_encoding.md R71): the fields determine the word, and those of `commandWord` are the
ones it was built from. -/

namespace Sys2Proof

/-! ### The fields of a word -/

theorem toNat_opcField (w : Word32) : (opcField w).toNat = w.toNat % 2 ^ 8 := by
  simp [opcField]

theorem toNat_ctxField (w : Word32) : (ctxField w).toNat = w.toNat / 2 ^ 8 % 2 ^ 4 := by
  simp [ctxField, Nat.shiftRight_eq_div_pow]

theorem toNat_sgnField (w : Word32) : (sgnField w).toNat = w.toNat / 2 ^ 12 % 2 ^ 1 := by
  simp [sgnField, Nat.shiftRight_eq_div_pow]

theorem toNat_rsvField (w : Word32) : (rsvField w).toNat = w.toNat / 2 ^ 13 % 2 ^ 19 := by
  simp [rsvField, Nat.shiftRight_eq_div_pow]

/-- The four fields leave no bit of a word out. -/
theorem word_ext_iff {w w' : Word32} :
    w = w' ↔ rsvField w = rsvField w' ∧ sgnField w = sgnField w' ∧ ctxField w = ctxField w' ∧ opcField w = opcField w' := by
  constructor
  · rintro rfl
    exact ⟨rfl, rfl, rfl, rfl⟩
  · simp only [← BitVec.toNat_inj, toNat_rsvField, toNat_sgnField, toNat_ctxField, toNat_opcField]
    omega

@[simp] theorem opcField_and (x y : Word32) : opcField (x &&& y) = opcField x &&& opcField y := BitVec.extractLsb'_and
@[simp] theorem ctxField_and (x y : Word32) : ctxField (x &&& y) = ctxField x &&& ctxField y := BitVec.extractLsb'_and
@[simp] theorem sgnField_and (x y : Word32) : sgnField (x &&& y) = sgnField x &&& sgnField y := BitVec.extractLsb'_and
@[simp] theorem rsvField_and (x y : Word32) : rsvField (x &&& y) = rsvField x &&& rsvField y := BitVec.extractLsb'_and

/-! ### The fields of a command word -/

section
variable (opc : BitVec 8) (c : Nat) (sgn : Bool)

/-- The three fields stand side by side. -/
theorem commandWord_eq_append :
    commandWord opc c sgn = (BitVec.ofBool sgn ++ BitVec.ofNat 4 c ++ opc).setWidth 32 := by
  rw [BitVec.setWidth_append_append_eq_shiftLeft_setWidth_or, BitVec.or_comm, BitVec.or_comm (_ <<< _), ← BitVec.or_assoc]
  rfl

@[simp] theorem opcField_commandWord : opcField (commandWord opc c sgn) = opc := by
  rw [commandWord_eq_append, opcField, BitVec.extractLsb'_setWidth_of_le (by decide), BitVec.extractLsb'_append_eq_right]

@[simp] theorem ctxField_commandWord : ctxField (commandWord opc c sgn) = BitVec.ofNat 4 c := by
  rw [commandWord_eq_append, ctxField, BitVec.extractLsb'_setWidth_of_le (by decide),
    BitVec.extractLsb'_append_eq_of_le (by decide), BitVec.extractLsb'_append_eq_right]

@[simp] theorem sgnField_commandWord : sgnField (commandWord opc c sgn) = BitVec.ofBool sgn := by
  rw [commandWord_eq_append, sgnField, BitVec.extractLsb'_setWidth_of_le (by decide),
    BitVec.extractLsb'_append_eq_of_le (by decide), BitVec.extractLsb'_append_eq_left]

@[simp] theorem rsvField_commandWord : rsvField (commandWord opc c sgn) = 0 := by
  have hlt := (BitVec.ofBool sgn ++ BitVec.ofNat 4 c ++ opc).isLt
  apply BitVec.eq_of_toNat_eq
  rw [toNat_rsvField, commandWord_eq_append, BitVec.toNat_setWidth]
  change _ = 0
  omega

end

/-- A word without reserved bits is built from its fields. -/
theorem commandWord_of_fields {w : Word32} (h : rsvField w = 0) :
    commandWord (opcField w) (ctxField w).toNat (sgnField w == 1) = w := by
  have hsgn : ∀ s : BitVec 1, BitVec.ofBool (s == 1) = s := by decide
  simpa [word_ext_iff, h] using hsgn (sgnField w)

end Sys2Proof
end

section
/-! PROOFS. Decoding and encoding are inverse to each other, and the steps of spec/30_encoding.md R76 are the match/mask test of R75. What
a row does with the fields `CTX` and `S` is its `Form`: every statement is proved once over the three forms, and the thirty commands
come in by one inversion of the opcode map. -/

namespace Sys2Proof

namespace Form

/-- The values of `CTX` and `S` that the row takes: a field it does not use is 0 (R76 steps 3 and 4). -/
def Takes : Form → BitVec 4 → BitVec 1 → Prop
  | .plain _, c, s => c = 0 ∧ s = 0
  | .signed _, c, _ => c = 0
  | .context _, _, s => s = 0

/-- The command the row makes of the two fields (R76 step 5). -/
def command : Form → BitVec 4 → BitVec 1 → Instr
  | .plain i, _, _ => i
  | .signed f, _, s => f (s == 1)
  | .context f, c, _ => f c.toNat

/-- The bits the row fixes (R75). -/
def mask : Form → Word32
  | .plain _ => 0xFFFFFFFF
  | .signed _ => 0xFFFFEFFF
  | .context _ => 0xFFFFF0FF

/-- The encoder writes the row's commands with the opcode `opc` and the field the row uses. -/
def EncodedBy (opc : BitVec 8) : Form → Prop
  | .plain i => i.WellFormed ∧ encode i = commandWord opc 0 false
  | .signed f => ∀ sgn, (f sgn).WellFormed ∧ encode (f sgn) = commandWord opc 0 sgn
  | .context f => ∀ c, contextFits c = true → (f c).WellFormed ∧ encode (f c) = commandWord opc c false

end Form

/-! ### The decoder -/

/-- What the decoder accepts, and as what (R76). -/
theorem decode_eq_ok_iff {w : Word32} {i : Instr} :
    decode w = .ok i ↔ rsvField w = 0 ∧ ∃ F, formOfOpcode (opcField w).toNat = some F ∧
      F.Takes (ctxField w) (sgnField w) ∧ F.command (ctxField w) (sgnField w) = i := by
  unfold decode
  by_cases hr : rsvField w = 0#19
  · cases hF : formOfOpcode (opcField w).toNat with
    | none => simp [hr]
    | some F =>
      cases F with
      | plain j =>
        by_cases hc : ctxField w = 0#4
        · by_cases hs : sgnField w = 0#1 <;> simp [hr, hc, hs, Form.Takes, Form.command]
        · simp [hr, hc, Form.Takes]
      | signed f => by_cases hc : ctxField w = 0#4 <;> simp [hr, hc, Form.Takes, Form.command]
      | context f => by_cases hs : sgnField w = 0#1 <;> simp [hr, hs, Form.Takes, Form.command]
  · simp [hr]

/-- A command word decodes by the form of its opcode. -/
theorem decode_commandWord {opc : BitVec 8} {c : Nat} {sgn : Bool} {F : Form} (hF : formOfOpcode opc.toNat = some F)
    (htakes : F.Takes (BitVec.ofNat 4 c) (BitVec.ofBool sgn)) :
    decode (commandWord opc c sgn) = .ok (F.command (BitVec.ofNat 4 c) (BitVec.ofBool sgn)) := by
  rw [decode_eq_ok_iff]
  exact ⟨rsvField_commandWord .., F, by simpa using hF, by simpa using htakes, by simp⟩

theorem decode_commandWord_plain {opc : BitVec 8} {i : Instr} (hF : formOfOpcode opc.toNat = some (.plain i)) :
    decode (commandWord opc 0 false) = .ok i :=
  decode_commandWord hF ⟨rfl, rfl⟩

theorem decode_commandWord_signed {opc : BitVec 8} {f : Bool → Instr} (hF : formOfOpcode opc.toNat = some (.signed f))
    (sgn : Bool) : decode (commandWord opc 0 sgn) = .ok (f sgn) := by
  have hsgn : (BitVec.ofBool sgn == 1) = sgn := by cases sgn <;> rfl
  simpa only [Form.command, hsgn] using decode_commandWord (c := 0) (sgn := sgn) hF rfl

theorem decode_commandWord_context {opc : BitVec 8} {f : Nat → Instr} (hF : formOfOpcode opc.toNat = some (.context f))
    {c : Nat} (hc : contextFits c = true) : decode (commandWord opc c false) = .ok (f c) := by
  have hfits : (BitVec.ofNat 4 c).toNat = c := Nat.mod_eq_of_lt (by simpa [contextFits] using hc)
  simpa only [Form.command, hfits] using decode_commandWord (c := c) (sgn := false) hF rfl

/-- Settles O1: one case per command, each by its row's form. -/
theorem decodeUndoesEncode : Obligations.DecodeUndoesEncode := by
  intro i hi
  cases i with
  | pbNew => exact decode_commandWord_plain rfl
  | pbRaw => exact decode_commandWord_plain rfl
  | pbEnc1 sgn => exact decode_commandWord_signed rfl sgn
  | pbEnc2 sgn => exact decode_commandWord_signed rfl sgn
  | pbEnc4 sgn => exact decode_commandWord_signed rfl sgn
  | pbEnc8 sgn => exact decode_commandWord_signed rfl sgn
  | pbLpbuf => exact decode_commandWord_plain rfl
  | pbLpstr => exact decode_commandWord_plain rfl
  | pbDump => exact decode_commandWord_plain rfl
  | pbLen => exact decode_commandWord_plain rfl
  | pcOpen => exact decode_commandWord_plain rfl
  | pcDec1 sgn => exact decode_commandWord_signed rfl sgn
  | pcDec2 sgn => exact decode_commandWord_signed rfl sgn
  | pcDec4 sgn => exact decode_commandWord_signed rfl sgn
  | pcDec8 sgn => exact decode_commandWord_signed rfl sgn
  | pcLpbuf => exact decode_commandWord_plain rfl
  | pcLpstr => exact decode_commandWord_plain rfl
  | pcRemain => exact decode_commandWord_plain rfl
  | crc32 => exact decode_commandWord_plain rfl
  | obfFwd => exact decode_commandWord_plain rfl
  | obfInv => exact decode_commandWord_plain rfl
  | bclApply c => exact decode_commandWord_context rfl hi
  | hdrGetlen => exact decode_commandWord_plain rfl
  | hdrBuild c => exact decode_commandWord_context rfl hi
  | csInit c => exact decode_commandWord_context rfl hi
  | csEncrypt c => exact decode_commandWord_context rfl hi
  | csDecrypt c => exact decode_commandWord_context rfl hi
  | csShuffle c => exact decode_commandWord_context rfl hi
  | csGetkey c => exact decode_commandWord_context rfl hi
  | csGetver c => exact decode_commandWord_context rfl hi

/-- Settles O4: fixed words, evaluated. -/
theorem decodeReadsWrittenWords : Obligations.DecodeReadsWrittenWords := by
  unfold Obligations.DecodeReadsWrittenWords
  decide

/-! ### The encoder -/

theorem opcode_eq_ofNat {opc : BitVec 8} {n : Nat} (h : opc.toNat = n) : opc = BitVec.ofNat 8 n := by
  simp [← h]

/-- The opcode map and the encoder are of one table (R75): one case per assigned opcode. -/
theorem encodedBy_of_formOfOpcode {opc : BitVec 8} {F : Form} (hF : formOfOpcode opc.toNat = some F) : F.EncodedBy opc := by
  unfold formOfOpcode at hF
  split at hF <;> cases hF
  all_goals
    rename_i hopc
    obtain rfl := opcode_eq_ofNat hopc
    simp [Form.EncodedBy, Instr.WellFormed, Instr.wellFormed, encode]

/-- The command a row makes of two fields is encoded with these fields. -/
theorem Form.EncodedBy.encode_command {opc : BitVec 8} {F : Form} (h : F.EncodedBy opc) {c : BitVec 4} {s : BitVec 1}
    (htakes : F.Takes c s) :
    (F.command c s).WellFormed ∧ encode (F.command c s) = commandWord opc c.toNat (s == 1) := by
  cases F with
  | plain i =>
    obtain ⟨rfl, rfl⟩ := htakes
    exact h
  | signed f =>
    obtain rfl : c = 0 := htakes
    exact h (s == 1)
  | context f =>
    obtain rfl : s = 0 := htakes
    exact h c.toNat (by simpa [contextFits] using c.isLt)

/-- Settles O2: the word is built from its fields, and so is the encoding of the command made of them. -/
theorem encodeUndoesDecode : Obligations.EncodeUndoesDecode := by
  intro w i hdec
  obtain ⟨hrsv, F, hF, htakes, rfl⟩ := decode_eq_ok_iff.mp hdec
  obtain ⟨hwf, henc⟩ := (encodedBy_of_formOfOpcode hF).encode_command htakes
  exact ⟨hwf, henc.trans (commandWord_of_fields hrsv)⟩

/-! ### The table -/

namespace Form

theorem fields_mask_plain (i : Instr) : rsvField (plain i).mask = BitVec.allOnes 19 ∧
    sgnField (plain i).mask = BitVec.allOnes 1 ∧ ctxField (plain i).mask = BitVec.allOnes 4 ∧
    opcField (plain i).mask = BitVec.allOnes 8 := by
  simp only [mask]
  decide

theorem fields_mask_signed (f : Bool → Instr) : rsvField (signed f).mask = BitVec.allOnes 19 ∧
    sgnField (signed f).mask = 0 ∧ ctxField (signed f).mask = BitVec.allOnes 4 ∧
    opcField (signed f).mask = BitVec.allOnes 8 := by
  simp only [mask]
  decide

theorem fields_mask_context (f : Nat → Instr) : rsvField (context f).mask = BitVec.allOnes 19 ∧
    sgnField (context f).mask = BitVec.allOnes 1 ∧ ctxField (context f).mask = 0 ∧
    opcField (context f).mask = BitVec.allOnes 8 := by
  simp only [mask]
  decide

/-- The match/mask test by fields: the mask leaves out exactly the field of which the form takes any value. -/
theorem and_mask_eq_iff (F : Form) (w : Word32) (opc : BitVec 8) :
    w &&& F.mask = commandWord opc 0 false ↔ rsvField w = 0 ∧ opcField w = opc ∧ F.Takes (ctxField w) (sgnField w) := by
  rw [word_ext_iff]
  cases F with
  | plain i => simp [-BitVec.reduceAllOnes, Takes, fields_mask_plain, and_assoc, and_comm, and_left_comm]
  | signed f => simp [-BitVec.reduceAllOnes, Takes, fields_mask_signed, and_comm]
  | context f => simp [-BitVec.reduceAllOnes, Takes, fields_mask_context, and_comm, and_left_comm]

end Form

/-- Every row's pattern is its opcode alone, and its mask that of the opcode's form. -/
theorem form_of_row : ∀ r ∈ opcodeTable, r.pattern = commandWord (opcField r.pattern) 0 false ∧
    (formOfOpcode (opcField r.pattern).toNat).map Form.mask = some r.mask := by
  decide

/-- Every assigned opcode has its row. -/
theorem row_of_form : ∀ opc : BitVec 8, (formOfOpcode opc.toNat).isSome = true → ∃ r ∈ opcodeTable,
    r.pattern = commandWord opc 0 false ∧ (formOfOpcode opc.toNat).map Form.mask = some r.mask := by
  decide

/-- No opcode has two rows. -/
theorem opcodes_nodup : (opcodeTable.map fun r => opcField r.pattern).Nodup := by
  decide

/-- A word that selects a row has the row's opcode, and decodes. -/
theorem decode_of_selects {r : Row} (hr : r ∈ opcodeTable) {w : Word32} (hsel : r.selects w = true) :
    opcField w = opcField r.pattern ∧ ∃ i, decode w = .ok i := by
  obtain ⟨hpattern, hform⟩ := form_of_row r hr
  obtain ⟨F, hF, hmask⟩ := Option.map_eq_some_iff.mp hform
  have hand : w &&& F.mask = commandWord (opcField r.pattern) 0 false := by
    rw [hmask, ← hpattern]
    exact beq_iff_eq.mp hsel
  obtain ⟨hrsv, hopc, htakes⟩ := (F.and_mask_eq_iff w _).mp hand
  exact ⟨hopc, _, decode_eq_ok_iff.mpr ⟨hrsv, F, by rw [hopc, hF], htakes, rfl⟩⟩

/-- A word that decodes selects the row of its opcode. -/
theorem selects_of_decode {w : Word32} {i : Instr} (hdec : decode w = .ok i) :
    ∃ r ∈ opcodeTable, r.selects w = true := by
  obtain ⟨hrsv, F, hF, htakes, -⟩ := decode_eq_ok_iff.mp hdec
  obtain ⟨r, hr, hpattern, hform⟩ := row_of_form (opcField w) (by simp [hF])
  have hmask : F.mask = r.mask := by simpa [hF] using hform
  refine ⟨r, hr, beq_iff_eq.mpr ?_⟩
  rw [hpattern, ← hmask]
  exact (F.and_mask_eq_iff w _).mpr ⟨hrsv, rfl, htakes⟩

/-- Settles O3: two rows that one word selects have the word's opcode, which names one row. -/
theorem decodeAcceptsTableWords : Obligations.DecodeAcceptsTableWords := by
  refine ⟨fun w => ⟨fun ⟨i, hdec⟩ => selects_of_decode hdec, fun ⟨r, hr, hsel⟩ => (decode_of_selects hr hsel).2⟩, ?_⟩
  intro w r hr r' hr' hsel hsel'
  obtain ⟨hopc, -⟩ := decode_of_selects hr hsel
  obtain ⟨hopc', -⟩ := decode_of_selects hr' hsel'
  exact List.inj_on_of_nodup_map opcodes_nodup hr hr' (hopc.symm.trans hopc')

end Sys2Proof
end

section
/-! PROOFS. How a command ends (spec/30_encoding.md R70, R73, R74): with `OK`, with `END_OF_DATA`, or with one of the six faults that can
happen, each time with exactly one response. One rule per shared operation, then one case per command. -/

namespace Sys2Proof.Machine

/-- `t` is how the command in `s` ends: a change made and `OK` answered, `END_OF_DATA` with the cursor where it was or after a length
field (R252), or a fault (R254), which the reserved cause never is (R262). -/
inductive Ends (s : State) : State → Prop
  | ok (e : Change) (res0 res1 : Field) (dout : List Byte) : Ends s ((e.apply s).okWith res0 res1 dout)
  | endOfData (req avail : Nat) : Ends s (s.endOfData req avail)
  | endOfItem (req avail : Nat) : Ends s ((s.setRp (s.rp + 2)).endOfData req avail)
  | fault (k : Cause) (i0 i1 : Field) (hk : k ≠ .cipherConfig) : Ends s (s.raise k i0 i1)

/-- A response has one of the eight possible statuses and only the fields that status carries (R73, R74, R262). -/
structure Response.WellShaped (r : Response) : Prop where
  status : r.status = 0x00 ∨ r.status = 0x01 ∨ ∃ k < 6, r.status = BitVec.ofNat 8 (0x80 + k)
  ok : r.status = 0x00 → r.info0 = 0 ∧ r.info1 = 0
  notOk : r.status ≠ 0x00 → r.res0 = 0 ∧ r.res1 = 0 ∧ r.dout = []

/-! ### The three kinds of response -/

theorem wellShaped_ok (res0 res1 : Field) (dout : List Byte) (fsr : BitVec 8) :
    Response.WellShaped ⟨statusOk, 0, 0, res0, res1, dout, fsr⟩ where
  status := .inl rfl
  ok _ := ⟨rfl, rfl⟩
  notOk h := absurd rfl h

theorem wellShaped_endOfData (i0 i1 : Field) (fsr : BitVec 8) :
    Response.WellShaped ⟨statusEndOfData, i0, i1, 0, 0, [], fsr⟩ where
  status := .inr (.inl rfl)
  ok h := absurd h (show statusEndOfData ≠ 0 by decide)
  notOk _ := ⟨rfl, rfl, rfl⟩

theorem Cause.bit_lt {k : Cause} (hk : k ≠ .cipherConfig) : k.bit < 6 := by
  cases k with
  | cipherConfig => exact absurd rfl hk
  | _ => decide

theorem Cause.status_ne_ok (k : Cause) : k.status ≠ 0 := by
  cases k <;> decide

theorem wellShaped_fault {k : Cause} (hk : k ≠ .cipherConfig) (i0 i1 : Field) (fsr : BitVec 8) :
    Response.WellShaped ⟨k.status, i0, i1, 0, 0, [], fsr⟩ where
  status := .inr (.inr ⟨k.bit, Cause.bit_lt hk, rfl⟩)
  ok h := absurd h k.status_ne_ok
  notOk _ := ⟨rfl, rfl, rfl⟩

/-- However a command ends, it is taken from those issued and answered by one response, which reports the `FSR` left. -/
theorem Ends.one_response {s t : State} (h : Ends s t) :
    t.inbox = s.inbox.tail ∧ ∃ r : Response, t.outbox = s.outbox ++ [r] ∧ r.fsr = t.fsr ∧ r.WellShaped := by
  cases h with
  | ok e res0 res1 dout => exact ⟨by simp, _, by simp, rfl, wellShaped_ok res0 res1 dout _⟩
  | endOfData req avail => exact ⟨rfl, _, rfl, rfl, wellShaped_endOfData _ _ _⟩
  | endOfItem req avail => exact ⟨rfl, _, rfl, rfl, wellShaped_endOfData _ _ _⟩
  | fault k i0 i1 hk => exact ⟨rfl, _, rfl, rfl, wellShaped_fault hk i0 i1 _⟩

/-! ### One rule per shared operation -/

namespace Ends

variable {s : State}

theorem append (b : List Byte) : Ends s (s.append b) := by
  obtain ⟨-, e⟩ | ⟨-, e⟩ := s.append_cases b
  · rw [e]
    exact fault .capacityExceeded _ _ (by decide)
  · rw [e]
    exact ok (.grow b) 0 0 []

theorem withRange {k : State} (hk : Ends s k) : Ends s (s.withRange k) := by
  obtain ⟨-, e⟩ | ⟨-, e⟩ := s.withRange_cases k
  · rw [e]
    exact fault .rangeError _ _ (by decide)
  · rw [e]
    exact hk

theorem transformRange (f : List Byte → List Byte) : Ends s (s.transformRange f) :=
  withRange (ok (.store s.base (f s.rangeBytes)) 0 0 [])

theorem withContext {c : Nat} {k : Context → State} (hk : ∀ x, Ends s (k x)) : Ends s (s.withContext c k) := by
  obtain ⟨-, e⟩ | ⟨x, -, e⟩ := s.withContext_cases c k
  · rw [e]
    exact fault .badContext _ _ (by decide)
  · rw [e]
    exact hk x

theorem withValidContext {c : Nat} {k : Context → State} (hk : ∀ x, Ends s (k x)) : Ends s (s.withValidContext c k) := by
  obtain ⟨-, e⟩ | ⟨-, -, -, e⟩ | ⟨x, -, -, e⟩ := s.withValidContext_cases c k
  · rw [e]
    exact fault .badContext _ _ (by decide)
  · rw [e]
    exact fault .contextUninit _ _ (by decide)
  · rw [e]
    exact hk x

theorem decodeInteger (n : Nat) (sgn : Bool) : Ends s (s.decodeInteger n sgn) := by
  obtain ⟨-, e⟩ | ⟨-, e⟩ := s.readFixed_cases n fun v s1 => s1.okWith (widen (8 * n) sgn v) 0 []
  · rw [State.decodeInteger, e]
    exact endOfData n _
  · rw [State.decodeInteger, e]
    exact ok (.advance n) _ 0 []

theorem readPrefixed {k : Nat → Nat → State → State}
    (hk : ∀ len, Ends s (k (s.rp + 2) len (s.setRp (s.rp + 2 + len)))) : Ends s (s.readPrefixed k) := by
  obtain ⟨-, e⟩ | ⟨-, -, e⟩ | ⟨-, -, e⟩ := s.readPrefixed_cases k
  · rw [e]
    exact endOfData 2 _
  · rw [e]
    exact endOfItem _ _
  · rw [e]
    exact hk _

/-- The cursor past an item is the cursor advanced once. -/
theorem okPastItem (len : Nat) (res0 res1 : Field) (dout : List Byte) :
    Ends s ((s.setRp (s.rp + 2 + len)).okWith res0 res1 dout) := by
  rw [Nat.add_assoc]
  exact ok (.advance (2 + len)) res0 res1 dout

end Ends

/-! ### The commands and the step -/

/-- Every command ends, whatever the state: each by the rule of the operation it is written with. -/
theorem exec_ends (i : Instr) (s : State) : ∃ t, exec i s = .next t ∧ Ends s t := by
  cases i with
  | pbNew => exact ⟨_, rfl, .ok .empty 0 0 []⟩
  | pbRaw => exact ⟨_, rfl, .append s.din⟩
  | pbEnc1 sgn => exact ⟨_, rfl, .append (s.integerOperand 1)⟩
  | pbEnc2 sgn => exact ⟨_, rfl, .append (s.integerOperand 2)⟩
  | pbEnc4 sgn => exact ⟨_, rfl, .append (s.integerOperand 4)⟩
  | pbEnc8 sgn => exact ⟨_, rfl, .append (s.integerOperand 8)⟩
  | pbLpbuf => exact ⟨_, rfl, .append (lengthPrefixed s.din)⟩
  | pbLpstr => exact ⟨_, rfl, .append (lengthPrefixed s.din)⟩
  | pbDump => exact ⟨_, rfl, .withRange (.ok .nothing 0 0 s.rangeBytes)⟩
  | pbLen => exact ⟨_, rfl, .ok .nothing _ 0 []⟩
  | pcOpen =>
    refine ⟨_, rfl, ?_⟩
    split
    · exact .fault .rangeError s.arg0 0 (by decide)
    · exact .ok (.openCursor s.base) 0 0 []
  | pcDec1 sgn => exact ⟨_, rfl, .decodeInteger 1 sgn⟩
  | pcDec2 sgn => exact ⟨_, rfl, .decodeInteger 2 sgn⟩
  | pcDec4 sgn => exact ⟨_, rfl, .decodeInteger 4 sgn⟩
  | pcDec8 sgn => exact ⟨_, rfl, .decodeInteger 8 sgn⟩
  | pcLpbuf => exact ⟨_, rfl, .readPrefixed fun len => .okPastItem len _ _ []⟩
  | pcLpstr => exact ⟨_, rfl, .readPrefixed fun len => .okPastItem len 0 _ _⟩
  | pcRemain => exact ⟨_, rfl, .ok .nothing _ 0 []⟩
  | crc32 => exact ⟨_, rfl, .ok .nothing _ 0 []⟩
  | obfFwd => exact ⟨_, rfl, .transformRange _⟩
  | obfInv => exact ⟨_, rfl, .transformRange _⟩
  | bclApply c => exact ⟨_, rfl, .withValidContext fun _ => .transformRange _⟩
  | hdrGetlen => exact ⟨_, rfl, .ok .nothing _ 0 []⟩
  | hdrBuild c => exact ⟨_, rfl, .withValidContext fun _ => .ok .nothing _ 0 []⟩
  | csInit c => exact ⟨_, rfl, .withContext fun _ => .ok (.setContext c s.constructed) 0 0 []⟩
  | csEncrypt c =>
    refine ⟨_, rfl, .withValidContext fun x => .withRange ?_⟩
    split
    · exact .fault .shortBuffer s.arg1 4 (by decide)
    · rw [s.encryptRange_eq_store]
      exact .ok (.store s.base (s.encryptedFrame x)) 0 0 []
  | csDecrypt c => exact ⟨_, rfl, .withValidContext fun _ => .transformRange _⟩
  | csShuffle c =>
    exact ⟨_, rfl, .withValidContext fun x => .ok (.setContext c { x with key := rep4 (shuffle s.cfg x.key) }) _ 0 []⟩
  | csGetkey c => exact ⟨_, rfl, .withValidContext fun x => .ok .nothing 0 0 x.key.toList⟩
  | csGetver c => exact ⟨_, rfl, .withValidContext fun _ => .ok .nothing _ _ []⟩

/-- A step with a command issued ends it, whatever its word. -/
theorem step_ends {s : State} {cmd : Command} {rest : List Command} (hin : s.inbox = cmd :: rest) :
    ∃ t, step s = .next t ∧ Ends s t := by
  simp only [step, hin]
  cases decode cmd.cw with
  | ok i => exact exec_ends i s
  | error why => exact ⟨_, rfl, .fault .illegalCommand _ 0 (by decide)⟩

/-- Settles O8: the step ends the command, and every ending gives one response. -/
theorem everyCommandIsAnsweredOnce : Obligations.EveryCommandIsAnsweredOnce := by
  intro s cmd rest hin
  obtain ⟨t, hstep, hends⟩ := step_ends hin
  obtain ⟨hinbox, r, hout, hfsr, -⟩ := hends.one_response
  exact ⟨t, r, hstep, by rw [hinbox, hin, List.tail_cons], hout, hfsr⟩

/-- Settles O9: the step ends the command, and the one response of every ending is well shaped. -/
theorem responsesAreWellShaped : Obligations.ResponsesAreWellShaped := by
  intro s t cmd rest r hin hstep hout
  obtain ⟨t', hstep', hends⟩ := step_ends hin
  obtain rfl : t' = t := by simpa [hstep'] using hstep
  obtain ⟨-, r', hout', -, hshape⟩ := hends.one_response
  obtain rfl : r' = r := by simpa [hout'] using hout
  exact ⟨hshape.status, hshape.ok, hshape.notOk⟩

end Sys2Proof.Machine
end

section
/-! PROOFS. How the commands of spec/40_packet_buffer.md answer: one rule for `OK`, one for a fault, one for an append that fits and one
for an append that does not, and the bytes an append stands for. -/

namespace Sys2Proof.Machine

/-! ### The two kinds of response -/

theorem State.okWith_eq_answered (s : State) (res0 res1 : Field) (dout : List Byte) :
    s.okWith res0 res1 dout = s.answered (okResponse s.fsr res0 res1 dout) := rfl

theorem State.ok_eq_answered (s : State) : s.ok = s.answered (okResponse s.fsr 0 0 []) := rfl

/-- Taking a fault is what R254 says it is, with the fault's number as its bit. -/
theorem State.raise_eq_faulted (s : State) (k : Cause) (i0 i1 : Field) : s.raise k i0 i1 = s.faulted k.bit i0 i1 := by
  cases k <;> rfl

/-! ### The bytes of an append -/

theorem getElem_le (n v k : Nat) (h : k < (le n v).length) : (le n v)[k] = BitVec.ofNat 8 (v / 256 ^ k) := by
  induction n generalizing v k with
  | zero => simp at h
  | succ n ih =>
    cases k with
    | zero => simp [le]
    | succ k =>
      have hk : k < (le n (v / 256)).length := by simpa using h
      calc (le n (v / 256))[k] = BitVec.ofNat 8 (v / 256 / 256 ^ k) := ih _ _ hk
        _ = BitVec.ofNat 8 (v / 256 ^ (k + 1)) := by rw [Nat.div_div_eq_div_mul, Nat.pow_succ']

/-- The byte sequence of an integer operand is its bytes from the least significant on (R103 to R106). -/
theorem State.integerOperand_eq_map (s : State) (n : Nat) :
    s.integerOperand n = (List.range n).map fun k => s.arg0.extractLsb' (8 * k) 8 := by
  apply List.ext_getElem (by simp [State.integerOperand])
  intro k h _
  simp [State.integerOperand, getElem_le, BitVec.extractLsb', Nat.shiftRight_eq_div_pow, Nat.pow_mul]

@[simp] theorem State.length_integerOperand (s : State) (n : Nat) : (s.integerOperand n).length = n := length_le n _

@[simp] theorem length_lengthPrefixed (b : List Byte) : (lengthPrefixed b).length = 2 + b.length := by
  simp [lengthPrefixed]

/-- The length field is the low two bytes of the length, the low one first (R107). -/
theorem lengthPrefixed_eq_cons (b : List Byte) :
    lengthPrefixed b = BitVec.ofNat 8 b.length :: BitVec.ofNat 8 (b.length / 256) :: b := by
  have hlow : BitVec.ofNat 8 (b.length % 2 ^ 16) = BitVec.ofNat 8 b.length := by
    apply BitVec.eq_of_toNat_eq
    simp only [BitVec.toNat_ofNat]
    omega
  have hhigh : BitVec.ofNat 8 (b.length % 2 ^ 16 / 256) = BitVec.ofNat 8 (b.length / 256) := by
    apply BitVec.eq_of_toNat_eq
    simp only [BitVec.toNat_ofNat]
    omega
  rw [lengthPrefixed, le, le, le, hlow, hhigh, List.cons_append, List.cons_append, List.nil_append]

/-! ### Whether an append fits -/

theorem State.roomFor_iff (s : State) (n : Nat) :
    s.roomFor n = true ↔ ∀ cap, s.cfg.pktCap = some cap → s.wp + n ≤ cap := by
  unfold State.roomFor
  cases s.cfg.pktCap <;> simp

/-- An append that fits is made (R101). -/
theorem State.append_of_roomFor {s : State} {b : List Byte} (h : s.roomFor b.length = true) : s.append b = (s.grow b).ok := by
  have hfits : s.overCapacity (s.wp + b.length) = false := (s.overCapacity_eq_false_iff _).mpr ((s.roomFor_iff _).mp h)
  obtain ⟨hover, -⟩ | ⟨-, e⟩ := s.append_cases b
  · simp [hfits] at hover
  · exact e

/-- An append that does not fit is refused whole (R101, R261). -/
theorem State.append_of_capacity_lt {s : State} {b : List Byte} {cap : Nat} (hcap : s.cfg.pktCap = some cap)
    (h : cap < s.wp + b.length) : s.append b = s.faulted 5 (fieldOfNat (s.wp + b.length)) (fieldOfNat cap) := by
  obtain ⟨-, e⟩ | ⟨hfits, -⟩ := s.append_cases b
  · rw [e, State.raise_eq_faulted]
    simp [State.capField, hcap, Cause.bit]
  · have := (s.overCapacity_eq_false_iff _).mp hfits cap hcap
    omega

/-! ### The commands that append -/

section
variable {i : Instr} {s : State}

/-- A command that is an append of `b` appends exactly `b` where it fits. -/
theorem appendsBytes_of_roomFor {b : List Byte} (hexec : exec i s = .next (s.append b)) (hmem : s.MemoryCanonical)
    (hroom : s.roomFor b.length = true) : AppendsBytes i s b := by
  refine ⟨s.pkt.writeBytes s.wp b, ?_, fun k hk => ?_, fun a ha => ?_⟩
  · rw [hexec, State.append_of_roomFor hroom]
    rfl
  · exact Memory.readByte_writeBytes_inside s.wp b k hmem hk
  · exact Memory.readByte_writeBytes_outside s.wp b a hmem ha

theorem appendsBytes_integerOperand {n : Nat} (hexec : exec i s = .next (s.append (s.integerOperand n)))
    (hmem : s.MemoryCanonical) (hroom : s.roomFor n = true) :
    AppendsBytes i s ((List.range n).map fun k => s.arg0.extractLsb' (8 * k) 8) := by
  rw [← s.integerOperand_eq_map]
  exact appendsBytes_of_roomFor hexec hmem (by rwa [s.length_integerOperand])

theorem appendsBytes_lengthPrefixed (hexec : exec i s = .next (s.append (lengthPrefixed s.din)))
    (hmem : s.MemoryCanonical) (hroom : s.roomFor (2 + s.din.length) = true) :
    AppendsBytes i s (BitVec.ofNat 8 s.din.length :: BitVec.ofNat 8 (s.din.length / 256) :: s.din) := by
  rw [← lengthPrefixed_eq_cons]
  exact appendsBytes_of_roomFor hexec hmem (by rwa [length_lengthPrefixed])

end

/-- The command word of a command that names no context: its opcode, and bit 12 for the `S` flag (R71). -/
theorem commandWord_zero (opc : BitVec 8) (sgn : Bool) :
    commandWord opc 0 sgn = opc.setWidth 32 ||| (if sgn then 0x1000 else 0) := by
  cases sgn <;> simp [commandWord]

/-- Settles O24: each of the four is an append of its integer operand, whose bytes are those of `ARG0`. -/
theorem integerAppendsAreLittleEndian : Obligations.IntegerAppendsAreLittleEndian := by
  refine ⟨commandWord_zero 0x12, commandWord_zero 0x13, commandWord_zero 0x14, commandWord_zero 0x15, ?_⟩
  intro s g ⟨hmem, _⟩
  exact ⟨appendsBytes_integerOperand rfl hmem, appendsBytes_integerOperand rfl hmem, appendsBytes_integerOperand rfl hmem,
    appendsBytes_integerOperand rfl hmem⟩

/-- Settles O25: the three are appends of `DIN`, bare or after its length field. -/
theorem streamAppendsKeepTheirBytes : Obligations.StreamAppendsKeepTheirBytes := by
  refine ⟨rfl, rfl, rfl, fun s ⟨hmem, _⟩ => ⟨appendsBytes_of_roomFor rfl hmem, fun hroom => ⟨?_, ?_⟩⟩⟩
  · exact appendsBytes_lengthPrefixed rfl hmem hroom
  · exact appendsBytes_lengthPrefixed rfl hmem hroom

/-- Settles O26: whichever bytes a command appends, the append that does not fit is refused. -/
theorem appendsBeyondCapacityAreRefused : Obligations.AppendsBeyondCapacityAreRefused := by
  intro s cap hcap i n hi hfull
  obtain ⟨b, rfl, hexec⟩ : ∃ b : List Byte, b.length = n ∧ exec i s = .next (s.append b) := by
    obtain ⟨rfl, rfl⟩ | ⟨⟨_, rfl⟩, rfl⟩ | ⟨⟨_, rfl⟩, rfl⟩ | ⟨⟨_, rfl⟩, rfl⟩ | ⟨⟨_, rfl⟩, rfl⟩ | ⟨rfl | rfl, rfl⟩ := hi
    · exact ⟨s.din, rfl, rfl⟩
    · exact ⟨s.integerOperand 1, s.length_integerOperand 1, rfl⟩
    · exact ⟨s.integerOperand 2, s.length_integerOperand 2, rfl⟩
    · exact ⟨s.integerOperand 4, s.length_integerOperand 4, rfl⟩
    · exact ⟨s.integerOperand 8, s.length_integerOperand 8, rfl⟩
    · exact ⟨lengthPrefixed s.din, length_lengthPrefixed s.din, rfl⟩
    · exact ⟨lengthPrefixed s.din, length_lengthPrefixed s.din, rfl⟩
  exact ⟨_, _, by rw [hexec, State.append_of_capacity_lt hcap hfull], fieldOfNat_of_lt, fieldOfNat_of_lt⟩

/-! ### The commands that do not append -/

/-- Settles O27: the range operand is refused, or the bytes read are those of the range. -/
theorem pbDumpReturnsTheRange : Obligations.PbDumpReturnsTheRange := by
  refine ⟨rfl, fun s => ?_⟩
  have hexec : exec .pbDump s = .next (s.withRange (s.okWith 0 0 s.rangeBytes)) := rfl
  rw [hexec]
  obtain ⟨hbad, e⟩ | ⟨hgood, e⟩ := s.withRange_cases (s.okWith 0 0 s.rangeBytes)
  · refine ⟨fun hin => absurd hin (Nat.not_le.mpr hbad), fun _ => ?_⟩
    rw [e]
    exact congrArg Host.Outcome.next (s.raise_eq_faulted .rangeError s.arg0 s.arg1)
  · refine ⟨fun _ => ⟨s.rangeBytes, by rw [e]; rfl, s.pkt.length_readBytes s.base s.len, fun k hk => ?_⟩,
      fun hout => absurd hout (Nat.not_lt.mpr hgood)⟩
    exact (s.pkt.getElem_readBytes s.base s.len k hk).symm

/-- Settles O23: the command's meaning is the emptied Packet and `OK`. -/
theorem pbNewEmptiesThePacket : Obligations.PbNewEmptiesThePacket :=
  ⟨rfl, fun s => congrArg Host.Outcome.next s.emptied.ok_eq_answered⟩

/-- Settles O28: both answer with their number as a field, which holds it where it fits. -/
theorem lengthsAreReported : Obligations.LengthsAreReported :=
  ⟨rfl, rfl, fun s =>
    ⟨⟨fieldOfNat s.wp, congrArg Host.Outcome.next (s.okWith_eq_answered _ 0 []), fieldOfNat_of_lt⟩,
      ⟨fieldOfNat s.avail, congrArg Host.Outcome.next (s.okWith_eq_answered _ 0 []), fieldOfNat_of_lt⟩⟩⟩

end Sys2Proof.Machine
end

section
/-! PROOFS. A length-prefixed buffer appended and read back (spec/40_packet_buffer.md R107, spec/41_packet_cursor.md R129, R133): one rule
for a block read in two parts and one for each of the three steps. -/

namespace Sys2Proof.Machine

/-! ### Blocks of memory -/

theorem Memory.readBytes_add (m : Memory) (a j k : Nat) :
    m.readBytes a (j + k) = m.readBytes a j ++ m.readBytes (a + j) k := by
  induction j generalizing a with
  | zero => simp [Memory.readBytes]
  | succ j ih =>
    rw [Nat.add_right_comm, Memory.readBytes, Memory.readBytes, ih, List.cons_append, Nat.add_right_comm, Nat.add_assoc]

/-- A block of two parts, written, is read back part by part. -/
theorem Memory.readBytes_writeBytes_append {m : Memory} (a : Nat) (b c : List Byte) (hm : m.wf = true) :
    (m.writeBytes a (b ++ c)).readBytes a b.length = b ∧
      (m.writeBytes a (b ++ c)).readBytes (a + b.length) c.length = c := by
  have h := Memory.readBytes_writeBytes a (b ++ c) hm
  rw [List.length_append, Memory.readBytes_add] at h
  exact List.append_inj h (by simp)

/-- A buffer that fits the length field, appended with its length: its length field and its bytes are read where they stand. -/
theorem State.readBytes_grow_lengthPrefixed {s : State} {d : List Byte} (hmem : s.MemoryCanonical) (hd : d.length ≤ 65535) :
    unle ((s.grow (lengthPrefixed d)).pkt.readBytes s.wp 2) = d.length ∧
      (s.grow (lengthPrefixed d)).pkt.readBytes (s.wp + 2) d.length = d := by
  obtain ⟨hprefix, hitem⟩ := Memory.readBytes_writeBytes_append s.wp (le 2 (d.length % 2 ^ 16)) d hmem
  rw [length_le] at hprefix hitem
  refine ⟨?_, hitem⟩
  rw [State.grow_pkt, lengthPrefixed, hprefix, unle_le]
  omega

/-! ### One rule per step of the round trip -/

section
variable {s : State} {cmd : Command} {rest : List Command} (hin : s.inbox = cmd :: rest)
include hin

/-- The step of a command whose word is that of `i` is `i`'s meaning. -/
theorem step_of_cw_eq_encode {i : Instr} (hcw : cmd.cw = encode i) (hi : i.WellFormed) : step s = exec i s :=
  stepRunsDecodedCommand s cmd rest i hin (by rw [hcw, decodeUndoesEncode i hi])

/-- `PB_LPBUF` and `PB_LPSTR` where the Packet has room (R107, R108). -/
theorem step_lengthPrefixed {enc : Instr} (henc : enc = .pbLpbuf ∨ enc = .pbLpstr) (hcw : cmd.cw = encode enc)
    (hroom : s.roomFor (2 + cmd.din.length) = true) : step s = .next (s.grow (lengthPrefixed cmd.din)).ok := by
  have hdin : s.din = cmd.din := congrArg Command.din (s.command_of_inbox cmd rest hin)
  have hwell : enc.WellFormed := by obtain rfl | rfl := henc <;> rfl
  have hexec : exec enc s = .next (s.append (lengthPrefixed s.din)) := by obtain rfl | rfl := henc <;> rfl
  rw [step_of_cw_eq_encode hin hcw hwell, hexec, hdin, State.append_of_roomFor (by rwa [length_lengthPrefixed])]

/-- `PC_OPEN` with its start index inside the Packet (R121). -/
theorem step_pcOpen {start : Nat} (hcw : cmd.cw = encode .pcOpen) (hstart : cmd.arg0.toNat = start) (h : start ≤ s.wp) :
    step s = .next (s.openCursor start).ok := by
  have hbase : s.base = start := by rw [State.base, State.arg0, s.command_of_inbox cmd rest hin, hstart]
  have hexec : exec .pcOpen s =
      .next (if s.wp < s.base then s.raise .rangeError s.arg0 0 else (s.openCursor s.base).ok) := rfl
  rw [step_of_cw_eq_encode hin hcw rfl, hexec, hbase, if_neg (Nat.not_lt.mpr h)]

/-- `PC_LPSTR` with the length field and its item `d` ahead of the cursor (R133). -/
theorem step_pcLpstr {d : List Byte} (hcw : cmd.cw = encode .pcLpstr) (hahead : s.rp + 2 + d.length ≤ s.rl)
    (hlen : unle (s.pkt.readBytes s.rp 2) = d.length) (hitem : s.pkt.readBytes (s.rp + 2) d.length = d) :
    step s = .next ((s.setRp (s.rp + 2 + d.length)).okWith 0 (fieldOfNat d.length) d) := by
  have hexec : exec .pcLpstr s =
      .next (s.readPrefixed fun off len s1 => s1.okWith 0 (fieldOfNat len) (s1.pkt.readBytes off len)) := rfl
  rw [step_of_cw_eq_encode hin hcw rfl, hexec]
  obtain ⟨hshort, -⟩ | ⟨-, hshort, -⟩ | ⟨-, -, e⟩ :=
    s.readPrefixed_cases fun off len s1 => s1.okWith 0 (fieldOfNat len) (s1.pkt.readBytes off len)
  · rw [State.avail] at hshort
    omega
  · omega
  · rw [e, hlen, State.setRp_pkt, hitem]

end

/-- Settles O35: the append puts length field and buffer at the old `WP`, where the opened cursor reads both. -/
theorem prefixedRoundTrip : Obligations.PrefixedRoundTrip := by
  intro s enc c1 c2 c3 rest henc ⟨hmem, _⟩ hroom hd hin hc1 hc2 hstart hc3
  obtain ⟨hlen, hitem⟩ := State.readBytes_grow_lengthPrefixed hmem hd
  have happend := step_lengthPrefixed hin henc hc1 hroom
  have hopen := step_pcOpen (s := (s.grow (lengthPrefixed c1.din)).ok) (rest := c3 :: rest) (by simp [hin]) hc2 hstart (by simp)
  have hread := step_pcLpstr (s := ((s.grow (lengthPrefixed c1.din)).ok.openCursor s.wp).ok) (rest := rest) (by simp [hin]) hc3
    (by simp [Nat.add_assoc]) hlen hitem
  refine ⟨_, _, _, happend, hopen, hread, by simp [hin], by simp, by simp [Nat.add_assoc], by simp [Nat.add_assoc], ?_⟩
  rw [fieldOfNat_of_lt (by omega)]
  simp [okResponse, statusOk]

end Sys2Proof.Machine
end

section
/-! PROOFS. The cursor reads (spec/41_packet_cursor.md): the number a little-endian block stands for, one rule for each outcome of the
fixed-width read and of the length-prefixed read, and the integer appended and read back. -/

namespace Sys2Proof.Machine

/-! ### The bytes of a read -/

/-- Bytes that stand in the memory are the ones a read of as many returns. -/
theorem Memory.Holds.readBytes_eq {m : Memory} {lo : Nat} {b : List Byte} (h : m.Holds lo b) :
    m.readBytes lo b.length = b := by
  apply List.ext_getElem (by simp)
  intro k h1 h2
  rw [Memory.getElem_readBytes, h k h2]

/-- The bytes a read returns stand where it reads them. -/
theorem Memory.holds_readBytes (m : Memory) (lo n : Nat) : m.Holds lo (m.readBytes lo n) :=
  fun k hk => (m.getElem_readBytes lo n k hk).symm

/-- A little-endian number: its first byte is the lowest (R12). -/
theorem ofNat_unle_cons (w : Nat) (b : Byte) (bs : List Byte) :
    BitVec.ofNat (w + 8) (unle (b :: bs)) = BitVec.ofNat w (unle bs) ++ b := by
  apply BitVec.eq_of_toNat_eq
  have hb : b.toNat < 2 ^ 8 := b.isLt
  have hlow : unle (b :: bs) % 2 ^ 8 = b.toNat := by
    rw [unle]
    omega
  have hhigh : unle (b :: bs) / 2 ^ 8 = unle bs := by
    rw [unle]
    omega
  rw [BitVec.toNat_append, BitVec.toNat_ofNat, BitVec.toNat_ofNat, ← Nat.shiftLeft_add_eq_or_of_lt hb, Nat.shiftLeft_eq,
    Nat.add_comm w 8, Nat.pow_add, Nat.mod_mul, hlow, hhigh]
  ring

theorem ofNat_unle_one (b : Byte) : BitVec.ofNat 8 (unle [b]) = b := by
  simp [unle]

theorem unle_pair (b0 b1 : Byte) : unle [b0, b1] = b0.toNat + 256 * b1.toNat := by
  simp [unle]

/-! ### Widening -/

/-- Where both widenings keep all 64 bits the `S` flag plays no part (R124). -/
theorem widen_64 (sgn : Bool) (v : Nat) : widen 64 sgn v = BitVec.ofNat 64 v := by
  cases sgn <;> simp [widen]

/-- A number that fits its width is widened to itself without the `S` flag (R124). -/
theorem widen_unsigned {bits v : Nat} (hbits : bits ≤ 64) (hv : v < 2 ^ bits) : widen bits false v = BitVec.ofNat 64 v := by
  apply BitVec.eq_of_toNat_eq
  have hfield : v < 2 ^ 64 := lt_of_lt_of_le hv (Nat.pow_le_pow_right (by decide) hbits)
  simp [widen, Nat.mod_eq_of_lt hv]

/-! ### The outcomes of a fixed-width read -/

theorem State.endOfData_eq_answered (s : State) {req avail : Nat} (hreq : req < 2 ^ 64) (havail : avail < 2 ^ 64) :
    s.endOfData req avail = s.answered (endOfDataResponse s.fsr req avail) := by
  rw [State.endOfData, fieldOfNat_of_lt hreq, fieldOfNat_of_lt havail]
  rfl

/-- A read of more than is ahead of the cursor leaves the cursor where it is (R122). -/
theorem State.readFixed_of_short {s : State} {n : Nat} (k : Nat → State → State) (hn : n < 2 ^ 64) (hshort : s.rl - s.rp < n) :
    s.readFixed n k = s.answered (endOfDataResponse s.fsr n (s.rl - s.rp)) := by
  obtain ⟨-, e⟩ | ⟨hahead, -⟩ := s.readFixed_cases n k
  · rw [e, State.avail, s.endOfData_eq_answered hn (by omega)]
  · rw [State.avail] at hahead
    omega

/-- A read of bytes that are ahead of the cursor gives their number and passes them (R122). -/
theorem State.readFixed_of_holds {s : State} {b : List Byte} (k : Nat → State → State) (hahead : s.rp + b.length ≤ s.rl)
    (hb : s.pkt.Holds s.rp b) : s.readFixed b.length k = k (unle b) (s.setRp (s.rp + b.length)) := by
  obtain ⟨hshort, -⟩ | ⟨-, e⟩ := s.readFixed_cases b.length k
  · rw [State.avail] at hshort
    omega
  · rw [e, hb.readBytes_eq]

/-- An integer read of bytes that are ahead of the cursor (R124). -/
theorem State.decodeInteger_of_holds {s : State} {b : List Byte} (sgn : Bool) (hahead : s.rp + b.length ≤ s.rl)
    (hb : s.pkt.Holds s.rp b) :
    s.decodeInteger b.length sgn = (s.setRp (s.rp + b.length)).okWith (widen (8 * b.length) sgn (unle b)) 0 [] :=
  State.readFixed_of_holds _ hahead hb

/-- The bytes `b` ahead of the cursor, whose number is `v`, are read as `v` widened by the `S` flag. -/
theorem State.decodeInteger_of_ofNat_unle {s : State} {b : List Byte} (sgn : Bool) {v : BitVec (8 * b.length)}
    (hv : BitVec.ofNat (8 * b.length) (unle b) = v) (hahead : s.rp + b.length ≤ s.rl) (hb : s.pkt.Holds s.rp b) :
    s.decodeInteger b.length sgn = ({ s with rp := s.rp + b.length } : State).answered
      (okResponse s.fsr (if sgn then v.signExtend 64 else v.zeroExtend 64) 0 []) := by
  rw [State.decodeInteger_of_holds sgn hahead hb, widen, hv]
  rfl

/-- Settles O30: each of the four is an integer read, and the number of its bytes has the first of them lowest. -/
theorem integerReadsAreLittleEndian : Obligations.IntegerReadsAreLittleEndian := by
  refine ⟨commandWord_zero 0x21, commandWord_zero 0x22, commandWord_zero 0x23, commandWord_zero 0x24, ?_⟩
  intro s g b0 b1 b2 b3 b4 b5 b6 b7
  have hv2 : BitVec.ofNat 16 (unle [b0, b1]) = b1 ++ b0 := by rw [ofNat_unle_cons 8, ofNat_unle_one]
  have hv4 : BitVec.ofNat 32 (unle [b0, b1, b2, b3]) = b3 ++ b2 ++ b1 ++ b0 := by
    rw [ofNat_unle_cons 24, ofNat_unle_cons 16, ofNat_unle_cons 8, ofNat_unle_one]
  have hv8 : BitVec.ofNat 64 (unle [b0, b1, b2, b3, b4, b5, b6, b7]) =
      b7 ++ b6 ++ b5 ++ b4 ++ b3 ++ b2 ++ b1 ++ b0 := by
    rw [ofNat_unle_cons 56, ofNat_unle_cons 48, ofNat_unle_cons 40, ofNat_unle_cons 32, ofNat_unle_cons 24,
      ofNat_unle_cons 16, ofNat_unle_cons 8, ofNat_unle_one]
  refine ⟨fun ha hb => ?_, fun ha hb => ?_, fun ha hb => ?_, fun ha hb => ?_⟩
  · exact congrArg Host.Outcome.next (State.decodeInteger_of_ofNat_unle g (ofNat_unle_one b0) ha hb)
  · exact congrArg Host.Outcome.next (State.decodeInteger_of_ofNat_unle g hv2 ha hb)
  · exact congrArg Host.Outcome.next (State.decodeInteger_of_ofNat_unle g hv4 ha hb)
  · refine congrArg Host.Outcome.next ((State.decodeInteger_of_holds g ha hb).trans ?_)
    rw [← hv8, ← widen_64 g]
    rfl

/-- Settles O31: each of the four is a fixed-width read of its width. -/
theorem shortIntegerReadsChangeNothing : Obligations.ShortIntegerReadsChangeNothing := by
  intro s g i n hi hshort
  have hn : n < 2 ^ 64 := by omega
  have hexec : exec i s = .next (s.decodeInteger n g) := by
    obtain ⟨rfl, rfl⟩ | ⟨rfl, rfl⟩ | ⟨rfl, rfl⟩ | ⟨rfl, rfl⟩ := hi <;> rfl
  rw [hexec, State.decodeInteger, State.readFixed_of_short _ hn hshort]

/-! ### The outcomes of a length-prefixed read -/

/-- The length field is a fixed-width read of 2 bytes, so without them the cursor stays (R130 a). -/
theorem State.readPrefixed_of_short {s : State} (k : Nat → Nat → State → State) (hshort : s.rl - s.rp < 2) :
    s.readPrefixed k = s.answered (endOfDataResponse s.fsr 2 (s.rl - s.rp)) :=
  State.readFixed_of_short _ (by decide) hshort

section
variable {s : State} {b0 b1 : Byte} {n : Nat} (k : Nat → Nat → State → State)
  (hb : s.pkt.Holds s.rp [b0, b1]) (hn : n = b0.toNat + 256 * b1.toNat)
include hb hn

/-- The two bytes at the cursor are the length a length-prefixed read finds (R129). -/
theorem State.lengthField_of_holds : unle (s.pkt.readBytes s.rp 2) = n := by
  have hread : s.pkt.readBytes s.rp 2 = [b0, b1] := hb.readBytes_eq
  rw [hread, unle_pair, hn]

/-- An item that is all there is passed with its length field (R129). -/
theorem State.readPrefixed_of_holds (hahead : s.rp + 2 + n ≤ s.rl) :
    s.readPrefixed k = k (s.rp + 2) n (s.setRp (s.rp + 2 + n)) := by
  have hlen := State.lengthField_of_holds hb hn
  obtain ⟨hshort, -⟩ | ⟨-, hshort, -⟩ | ⟨-, -, e⟩ := s.readPrefixed_cases k
  · rw [State.avail] at hshort
    omega
  · omega
  · rw [e, hlen]

/-- An item that is not all there leaves the cursor just after the length field (R130 b). -/
theorem State.readPrefixed_of_short_item (hfield : s.rp + 2 ≤ s.rl) (hshort : s.rl < s.rp + 2 + n) :
    s.readPrefixed k =
      (s.setRp (s.rp + 2)).answered (endOfDataResponse s.fsr n (s.rl - (s.rp + 2))) := by
  have hlen := State.lengthField_of_holds hb hn
  have hn16 : n < 2 ^ 16 := by
    have := b0.isLt
    have := b1.isLt
    omega
  obtain ⟨hnone, -⟩ | ⟨-, -, e⟩ | ⟨-, hall, -⟩ := s.readPrefixed_cases k
  · rw [State.avail] at hnone
    omega
  · rw [e, hlen, State.endOfData_eq_answered _ (by omega) (by omega), State.setRp_fsr]
  · omega

end

/-- Settles O32: both commands pass the item; the descriptor is its place, and the copy the bytes read there. -/
theorem prefixedReadsReturnTheItem : Obligations.PrefixedReadsReturnTheItem := by
  refine ⟨rfl, rfl, fun s b0 b1 n hahead hb hn => ?_⟩
  have hlen : fieldOfNat n = BitVec.ofNat 64 n := by
    have := b0.isLt
    have := b1.isLt
    exact fieldOfNat_of_lt (by omega)
  have hpast (k : Nat → Nat → State → State) := State.readPrefixed_of_holds k hb hn hahead
  rw [← hlen]
  exact ⟨⟨fieldOfNat (s.rp + 2), congrArg Host.Outcome.next (hpast _), fieldOfNat_of_lt⟩,
    s.pkt.readBytes (s.rp + 2) n, congrArg Host.Outcome.next (hpast _), s.pkt.length_readBytes _ _, s.pkt.holds_readBytes _ _⟩

/-- Settles O33: the length field not there, or the item it declares. -/
theorem prefixedReadsFailInTwoWays : Obligations.PrefixedReadsFailInTwoWays := by
  intro s i hi
  obtain ⟨k, hexec⟩ : ∃ k, exec i s = .next (s.readPrefixed k) := by
    obtain rfl | rfl := hi <;> exact ⟨_, rfl⟩
  rw [hexec]
  refine ⟨fun hshort => ?_, fun b0 b1 n hfield hb hn hshort => ?_⟩
  · rw [State.readPrefixed_of_short k hshort]
  · exact congrArg Host.Outcome.next (State.readPrefixed_of_short_item k hb hn hfield hshort)

/-! ### The round trip of an integer -/

section
variable {s : State} {cmd : Command} {rest : List Command} (hin : s.inbox = cmd :: rest)
include hin

/-- A command that appends its `n`-byte integer operand, where the Packet has room (R101). -/
theorem step_integerAppend {i : Instr} {n : Nat} (hcw : cmd.cw = encode i) (hi : i.WellFormed)
    (hexec : exec i s = .next (s.append (s.integerOperand n))) (hroom : s.roomFor n = true) :
    step s = .next (s.grow (le n cmd.arg0.toNat)).ok := by
  have hoperand : s.integerOperand n = le n cmd.arg0.toNat := by
    rw [State.integerOperand, State.arg0, s.command_of_inbox cmd rest hin]
  rw [step_of_cw_eq_encode hin hcw hi, hexec, State.append_of_roomFor (by rwa [s.length_integerOperand]), hoperand]

/-- A command that reads an unsigned integer, where the bytes ahead of the cursor are those of `v` (R122). -/
theorem step_unsignedRead {i : Instr} {n v : Nat} (hcw : cmd.cw = encode i) (hi : i.WellFormed)
    (hexec : exec i s = .next (s.decodeInteger n false)) (hn : n ≤ 8) (hahead : s.rp + n ≤ s.rl)
    (hheld : s.pkt.Holds s.rp (le n v)) :
    step s = .next ((s.setRp (s.rp + n)).okWith (BitVec.ofNat 64 (v % 2 ^ (8 * n))) 0 []) := by
  have hread := State.decodeInteger_of_holds false (by rwa [length_le]) hheld
  rw [length_le, unle_le, widen_unsigned (by omega) (Nat.mod_lt _ (by positivity))] at hread
  rw [step_of_cw_eq_encode hin hcw hi, hexec, hread]

end

/-- Settles O34: the append puts the integer's bytes at the old `WP`, where the opened cursor reads them. -/
theorem integerRoundTrip : Obligations.IntegerRoundTrip := by
  intro s g enc dec n c1 c2 c3 rest hi ⟨hmem, _⟩ hroom hin hc1 hc2 hstart hc3
  obtain ⟨hencWell, hdecWell, hn, henc, hdec⟩ : enc.WellFormed ∧ dec.WellFormed ∧ n ≤ 8 ∧
      exec enc s = .next (s.append (s.integerOperand n)) ∧ ∀ t, exec dec t = .next (t.decodeInteger n false) := by
    obtain ⟨rfl, rfl, rfl⟩ | ⟨rfl, rfl, rfl⟩ | ⟨rfl, rfl, rfl⟩ | ⟨rfl, rfl, rfl⟩ := hi <;>
      exact ⟨rfl, rfl, by decide, rfl, fun _ => rfl⟩
  have hheld : (s.grow (le n c1.arg0.toNat)).pkt.Holds s.wp (le n c1.arg0.toNat) :=
    fun k hk => Memory.readByte_writeBytes_inside s.wp _ k hmem hk
  have happend := step_integerAppend hin hc1 hencWell henc hroom
  have hopen := step_pcOpen (s := (s.grow (le n c1.arg0.toNat)).ok) (rest := c3 :: rest) (by simp [hin]) hc2 hstart (by simp)
  have hread := step_unsignedRead (s := ((s.grow (le n c1.arg0.toNat)).ok.openCursor s.wp).ok) (rest := rest) (by simp [hin])
    hc3 hdecWell (hdec _) hn (by simp) hheld
  exact ⟨_, _, _, happend, hopen, hread, by simp [hin], by simp, by simp, by simp, by simp [okResponse, statusOk]⟩

/-! ### Opening the cursor -/

/-- Settles O29: the start index is inside the Packet, or the command is refused. -/
theorem pcOpenSetsTheCursor : Obligations.PcOpenSetsTheCursor := by
  refine ⟨rfl, fun s => ?_⟩
  have hexec : exec .pcOpen s =
      .next (if s.wp < s.base then s.raise .rangeError s.arg0 0 else (s.openCursor s.base).ok) := rfl
  rw [hexec]
  refine ⟨fun hin => ?_, fun hout => ?_⟩
  · have hgood : ¬ s.wp < s.base := Nat.not_lt.mpr hin
    rw [if_neg hgood]
    rfl
  · have hbad : s.wp < s.base := hout
    rw [if_pos hbad]
    exact congrArg Host.Outcome.next (s.raise_eq_faulted .rangeError s.arg0 0)

end Sys2Proof.Machine
end

section
/-! PROOFS. The checksum (spec/42_checksum.md). The inner steps of R141 are linear, and bits that shift out as zeros leave only the
shift: so the register's byte that meets the data goes through the table alone, and the table-driven form computes the same. -/

namespace Sys2Proof.Machine

/-! ### The inner step under either bit order -/

/-- The register moved `n` places toward the end it shifts to. -/
def crcShift (cv : Config.CrcConvention) (n : Nat) (c : Word32) : Word32 :=
  match cv.order with
  | .lsbFirst => c >>> n
  | .msbFirst => c <<< n

/-- The bit the `i`-th of a run of plain shifts takes out of the register. -/
def crcOut (cv : Config.CrcConvention) (c : Word32) (i : Nat) : Bool :=
  match cv.order with
  | .lsbFirst => c.getLsbD i
  | .msbFirst => c.getMsbD i

/-- The byte of the register that meets the data byte. -/
def crcHead (cv : Config.CrcConvention) (c : Word32) : Byte :=
  match cv.order with
  | .lsbFirst => c.setWidth 8
  | .msbFirst => (c >>> 24).setWidth 8

theorem crcBit_eq (cv : Config.CrcConvention) (c : Word32) :
    crcBit cv c = crcShift cv 1 c ^^^ if crcOut cv c 0 then cv.poly else 0 := by
  have hmsb : c.getMsbD 0 = c.getLsbD 31 := by simp [BitVec.getMsbD]
  unfold crcBit crcShift crcOut
  cases cv.order with
  | lsbFirst => cases c.getLsbD 0 <;> simp
  | msbFirst =>
    simp only [hmsb]
    cases c.getLsbD 31 <;> simp

theorem crcByteByTable_eq (cv : Config.CrcConvention) (c : Word32) (d : Byte) :
    crcByteByTable cv c d = crcShift cv 8 c ^^^ crcTable cv (crcHead cv c ^^^ d) := by
  unfold crcByteByTable crcShift crcHead
  cases cv.order <;> rfl

theorem crcShift_xor (cv : Config.CrcConvention) (n : Nat) (a b : Word32) :
    crcShift cv n (a ^^^ b) = crcShift cv n a ^^^ crcShift cv n b := by
  unfold crcShift
  cases cv.order with
  | lsbFirst => exact BitVec.ushiftRight_xor_distrib a b n
  | msbFirst => exact BitVec.shiftLeft_xor_distrib a b n

@[simp] theorem crcShift_zero (cv : Config.CrcConvention) (c : Word32) : crcShift cv 0 c = c := by
  unfold crcShift
  cases cv.order <;> simp

theorem crcShift_crcShift (cv : Config.CrcConvention) (m n : Nat) (c : Word32) :
    crcShift cv n (crcShift cv m c) = crcShift cv (m + n) c := by
  unfold crcShift
  cases cv.order with
  | lsbFirst => exact (BitVec.shiftRight_add c m n).symm
  | msbFirst => exact (BitVec.shiftLeft_add c m n).symm

theorem crcOut_xor (cv : Config.CrcConvention) (a b : Word32) (i : Nat) :
    crcOut cv (a ^^^ b) i = (crcOut cv a i ^^ crcOut cv b i) := by
  unfold crcOut
  cases cv.order <;> simp

theorem crcOut_crcShift (cv : Config.CrcConvention) (n : Nat) (c : Word32) (i : Nat) :
    crcOut cv (crcShift cv n c) i = crcOut cv c (n + i) := by
  unfold crcOut crcShift
  cases cv.order with
  | lsbFirst => exact BitVec.getLsbD_ushiftRight c n i
  | msbFirst => rw [BitVec.getMsbD_shiftLeft, Nat.add_comm]

/-! ### Linearity -/

theorem crcBit_xor (cv : Config.CrcConvention) (a b : Word32) : crcBit cv (a ^^^ b) = crcBit cv a ^^^ crcBit cv b := by
  have hpoly : ∀ x y : Bool, (if (x ^^ y) then cv.poly else 0) = (if x then cv.poly else 0) ^^^ if y then cv.poly else 0 := by
    intro x y
    cases x <;> cases y <;> simp
  rw [crcBit_eq, crcBit_eq, crcBit_eq, crcShift_xor, crcOut_xor, hpoly]
  ac_rfl

theorem crcBits_xor (cv : Config.CrcConvention) (n : Nat) (a b : Word32) :
    crcBits cv n (a ^^^ b) = crcBits cv n a ^^^ crcBits cv n b := by
  induction n generalizing a b with
  | zero => rfl
  | succ n ih => rw [crcBits, crcBit_xor, ih]; rfl

theorem crcLoad_xor (cv : Config.CrcConvention) (a b : Byte) : crcLoad cv (a ^^^ b) = crcLoad cv a ^^^ crcLoad cv b := by
  unfold crcLoad
  cases cv.order <;> simp [BitVec.shiftLeft_xor_distrib]

/-! ### What the inner steps make of zeros that shift out -/

/-- Where only zeros shift out the polynomial never enters. -/
theorem crcBits_of_crcOut_false (cv : Config.CrcConvention) (n : Nat) (c : Word32) (hout : ∀ i < n, crcOut cv c i = false) :
    crcBits cv n c = crcShift cv n c := by
  induction n generalizing c with
  | zero => rw [crcShift_zero]; rfl
  | succ n ih =>
    have hfirst : crcBit cv c = crcShift cv 1 c := by simp [crcBit_eq, hout 0 (by omega)]
    have hrest : ∀ i < n, crcOut cv (crcShift cv 1 c) i = false := fun i hi => by
      rw [crcOut_crcShift]; exact hout _ (by omega)
    rw [crcBits, hfirst, ih _ hrest, crcShift_crcShift, Nat.add_comm]

/-- A loaded byte fills the places the next eight steps take out, with the bits found there. -/
theorem crcOut_crcLoad_crcHead (cv : Config.CrcConvention) (c : Word32) (i : Nat) (hi : i < 8) :
    crcOut cv (crcLoad cv (crcHead cv c)) i = crcOut cv c i := by
  unfold crcOut crcLoad crcHead
  cases cv.order with
  | lsbFirst =>
    have hwide : i < 32 := by omega
    simp [hi, hwide]
  | msbFirst =>
    have hplace : i + 24 < 32 := by omega
    simp [hplace]

/-- Eight plain shifts take a loaded byte out of the register. -/
theorem crcShift_crcLoad (cv : Config.CrcConvention) (d : Byte) : crcShift cv 8 (crcLoad cv d) = 0 := by
  unfold crcShift crcLoad
  cases cv.order with
  | lsbFirst => ext i; simp
  | msbFirst => ext i; simp

/-- The register apart from its head byte goes through a byte's inner steps unchanged but for the shift. -/
theorem crcBits_without_crcHead (cv : Config.CrcConvention) (c : Word32) :
    crcBits cv 8 (c ^^^ crcLoad cv (crcHead cv c)) = crcShift cv 8 c := by
  have hout : ∀ i < 8, crcOut cv (c ^^^ crcLoad cv (crcHead cv c)) i = false := fun i hi => by
    rw [crcOut_xor, crcOut_crcLoad_crcHead cv c i hi, Bool.xor_self]
  rw [crcBits_of_crcOut_false cv 8 _ hout, crcShift_xor, crcShift_crcLoad]
  exact BitVec.xor_zero

theorem crcByteByTable_eq_crcByte (cv : Config.CrcConvention) (c : Word32) (d : Byte) :
    crcByteByTable cv c d = crcByte cv c d := by
  have hsplit : c ^^^ crcLoad cv d = (c ^^^ crcLoad cv (crcHead cv c)) ^^^ crcLoad cv (crcHead cv c ^^^ d) := by
    rw [crcLoad_xor, BitVec.xor_assoc, ← BitVec.xor_assoc (crcLoad cv (crcHead cv c)), BitVec.xor_self, BitVec.zero_xor]
  rw [crcByteByTable_eq, crcTable, crcByte, hsplit, crcBits_xor, crcBits_without_crcHead]

/-- Settles O38: the two forms make the same register of every byte. -/
theorem crc32TableFormAgrees : Obligations.Crc32TableFormAgrees := by
  intro cv s data
  rw [crcOverByTable, crcOver, funext₂ (crcByteByTable_eq_crcByte cv)]

/-! ### The register byte by byte -/

/-- The register under a convention before byte `k` of the data. -/
def crcRegister (cv : Config.CrcConvention) (seed : Word32) (data : List Byte) (k : Nat) : Word32 :=
  (data.take k).foldl (crcByte cv) (seed ^^^ cv.seedMask)

theorem crcRegister_succ (cv : Config.CrcConvention) (seed : Word32) (data : List Byte) (k : Nat) (hk : k < data.length) :
    crcRegister cv seed data (k + 1) = crcByte cv (crcRegister cv seed data k) (data.getD k 0) := by
  rw [crcRegister, List.take_add_one, List.foldl_append, ← crcRegister, List.getElem?_eq_getElem hk, List.getD_eq_getElem _ _ hk]
  rfl

theorem crcOver_eq_crcRegister (cv : Config.CrcConvention) (seed : Word32) (data : List Byte) :
    crcOver cv seed data = crcRegister cv seed data data.length ^^^ cv.resultMask := by
  rw [crcRegister, List.take_length, crcOver]

theorem crcLoad_of_lsbFirst {cv : Config.CrcConvention} (h : cv.order = .lsbFirst) (d : Byte) :
    crcLoad cv d = d.setWidth 32 := by
  rw [crcLoad, h]

theorem crcBit_of_lsbFirst {cv : Config.CrcConvention} (h : cv.order = .lsbFirst) (c : Word32) :
    crcBit cv c = if c.getLsbD 0 then (c >>> 1) ^^^ cv.poly else c >>> 1 := by
  rw [crcBit, h]

theorem crc32_of_uninterpreted (p : Config.Params) (seed : Word32) (data : List Byte) (h : p.crc = .uninterpreted) :
    crc32 p seed data = data.foldl Config.openCrcByte seed := by
  rw [crc32, h]

theorem narrow_eq_setWidth (n : Nat) (a : Field) : narrow n a = a.setWidth n := by
  ext i
  simp [narrow]

theorem exec_crc32 (s : State) :
    exec .crc32 s =
      .next (s.answered (okResponse s.fsr ((crc32 s.cfg (s.arg0.setWidth 32) s.din).setWidth 64) 0 [])) := by
  have hexec : exec .crc32 s = .next (s.okWith (field32 (crc32 s.cfg (narrow 32 s.arg0) s.din)) 0 []) := rfl
  rw [hexec, narrow_eq_setWidth, State.okWith_eq_answered, field32]

/-- Settles O36: the register before each byte, and through a byte's inner steps. -/
theorem crc32ReportsTheChecksum : Obligations.Crc32ReportsTheChecksum := by
  refine ⟨rfl, exec_crc32, fun p cv seed data hp horder => ?_, crc32_of_uninterpreted⟩
  refine ⟨crcRegister cv seed data, rfl, ?_, fun k hk => ?_⟩
  · rw [crc32_of_convention p cv seed data hp, crcOver_eq_crcRegister]
  · refine ⟨fun n => crcBits cv n (crcRegister cv seed data k ^^^ (data.getD k 0).setWidth 32), rfl, ?_, fun n _ => ?_⟩
    · rw [crcRegister_succ cv seed data k hk, crcByte, crcLoad_of_lsbFirst horder]
    · exact (crcBits_crcBit cv n _).trans (crcBit_of_lsbFirst horder _)

/-! ### Composition through the seed -/

/-- Where the two masks agree, the final inversion of one call and the initial inversion of the next cancel (R142). -/
theorem crcOver_append (cv : Config.CrcConvention) (hmask : cv.seedMask = cv.resultMask) (seed : Word32) (a b : List Byte) :
    crcOver cv seed (a ++ b) = crcOver cv (crcOver cv seed a) b := by
  simp only [crcOver, hmask, List.foldl_append, BitVec.xor_assoc, BitVec.xor_self, BitVec.xor_zero]

theorem crcOver_nil (cv : Config.CrcConvention) (hmask : cv.seedMask = cv.resultMask) (seed : Word32) :
    crcOver cv seed [] = seed := by
  simp only [crcOver, hmask, List.foldl_nil, BitVec.xor_assoc, BitVec.xor_self, BitVec.xor_zero]

/-- Settles O37: a legal convention's masks agree, and the unknown checksum is a fold of its byte step. -/
theorem crc32Composes : Obligations.Crc32Composes := by
  intro p hlegal s a b
  obtain ⟨-, hcrc⟩ := (params_legal_iff p).mp hlegal
  cases hp : p.crc with
  | convention cv =>
    have hmask : cv.seedMask = cv.resultMask := by simpa [hp, Config.Crc.legalB] using hcrc
    simp only [crc32_of_convention p cv _ _ hp]
    exact ⟨(crcOver_append cv hmask s a b).symm, crcOver_nil cv hmask s⟩
  | uninterpreted =>
    simp only [crc32_of_uninterpreted p _ _ hp]
    exact ⟨List.foldl_append.symm, rfl⟩

end Sys2Proof.Machine
end

section
/-! PROOFS. The commands that transform their range in place (spec/30_encoding.md R78): one rule for the range that lies in the Packet and
one for the range that does not, whichever transform it is. -/

namespace Sys2Proof.Machine

section
variable {i : Instr} {s : State} {f : List Byte → List Byte} (hexec : exec i s = .next (s.transformRange f))
include hexec

/-- The range that lies in the Packet is replaced by the transform of its bytes, where the transform keeps their number. -/
theorem replacesRange_of_transformRange {b : List Byte} (hmem : s.MemoryCanonical) (hin : s.base + s.len ≤ s.wp)
    (hlen : b.length = s.len) (hbytes : s.pkt.Holds s.base b) (hkeeps : (f b).length = b.length) :
    ReplacesRange i s (f b) := by
  have hread : s.rangeBytes = b := by rw [State.rangeBytes, ← hlen, hbytes.readBytes_eq]
  obtain ⟨hout, -⟩ | ⟨-, e⟩ := s.transformRange_cases f
  · omega
  refine ⟨s.pkt.writeBytes s.base (f b), ?_, fun k hk => ?_, fun a ha => ?_⟩
  · rw [hexec, e, hread]
    rfl
  · exact Memory.readByte_writeBytes_inside s.base (f b) k hmem hk
  · exact Memory.readByte_writeBytes_outside s.base (f b) a hmem (by omega)

/-- The range that does not lie in the Packet is reported. -/
theorem exec_eq_faulted_of_transformRange (hout : s.wp < s.base + s.len) :
    exec i s = .next (s.faulted 3 s.arg0 s.arg1) := by
  obtain ⟨-, e⟩ | ⟨hin, -⟩ := s.transformRange_cases f
  · rw [hexec, e, State.raise_eq_faulted]
    rfl
  · omega

end

/-- Settles O41: both commands are in-place transforms that keep the length. -/
theorem obfuscationCommandsTransformTheRange : Obligations.ObfuscationCommandsTransformTheRange := by
  refine ⟨rfl, rfl, fun s b ⟨hmem, _⟩ => ?_⟩
  have hfwd : exec .obfFwd s = .next (s.transformRange (obfFwd s.cfg.obfATap)) := rfl
  have hinv : exec .obfInv s = .next (s.transformRange (obfInv s.cfg.obfATap)) := rfl
  refine ⟨fun hin hlen hbytes => ⟨?_, ?_⟩, fun hout => ⟨?_, ?_⟩⟩
  · exact replacesRange_of_transformRange hfwd hmem hin hlen hbytes (length_obfFwd _ b)
  · exact replacesRange_of_transformRange hinv hmem hin hlen hbytes (length_obfInv _ b)
  · exact exec_eq_faulted_of_transformRange hfwd hout
  · exact exec_eq_faulted_of_transformRange hinv hout

end Sys2Proof.Machine
end

section
/-! PROOFS. The obfuscation transform (spec/43_obfuscation.md). Each of the four scans is one sweep: a byte rule and an accumulator rule
applied at rising positions. What a sweep puts at a position, and when one sweep undoes another, is proved once for all rules. -/

namespace Sys2Proof.Machine

/-! ### Rotations of a byte (R11) -/

/-- Bit `i` of a rotated byte is the bit `n` places below it, round the end. -/
theorem getLsbD_rol8 (v : Byte) (n i : Nat) (hi : i < 8) :
    (rol8 v n).getLsbD i = v.getLsbD ((i + (8 - n % 8)) % 8) := by
  simp only [rol8, BitVec.getLsbD_or, BitVec.getLsbD_shiftLeft, BitVec.getLsbD_ushiftRight]
  by_cases hlow : i < n % 8
  · have hwrap : (i + (8 - n % 8)) % 8 = 8 - n % 8 + i := by omega
    simp [hlow, hwrap]
  · have hwrap : (i + (8 - n % 8)) % 8 = i - n % 8 := by omega
    have hgone : v.getLsbD (8 - n % 8 + i) = false := v.getLsbD_of_ge _ (by omega)
    simp [hlow, hwrap, hgone, hi]

/-- Two rotations that make whole turns together leave the byte. -/
theorem rol8_rol8_of_turns (v : Byte) (m n : Nat) (h : (m + n) % 8 = 0) : rol8 (rol8 v m) n = v := by
  apply BitVec.eq_of_getLsbD_eq
  intro i hi
  rw [getLsbD_rol8 _ n i hi, getLsbD_rol8 v m _ (Nat.mod_lt _ (by decide))]
  congr 1
  omega

@[simp] theorem ror8_rol8 (v : Byte) (n : Nat) : ror8 (rol8 v n) n = v := rol8_rol8_of_turns v _ _ (by omega)

@[simp] theorem rol8_ror8 (v : Byte) (n : Nat) : rol8 (ror8 v n) n = v := rol8_rol8_of_turns v _ _ (by omega)

/-! ### Sweeps -/

/-- The bytes taken in order at the positions from `i` on: `out` is the byte rule, `next` the accumulator rule, each given the
position, the accumulator and the byte taken. -/
def sweep (out next : Nat → Byte → Byte → Byte) : Nat → Byte → List Byte → List Byte
  | _, _, [] => []
  | i, acc, x :: xs => out i acc x :: sweep out next (i + 1) (next i acc x) xs

/-- The accumulator of a sweep from position `i` on, before its byte `k`. -/
def sweepAcc (next : Nat → Byte → Byte → Byte) (i : Nat) (start : Byte) (xs : List Byte) : Nat → Byte
  | 0 => start
  | k + 1 => next (k + i) (sweepAcc next i start xs k) (xs.getD k 0)

section
variable {out next out' next' : Nat → Byte → Byte → Byte}

/-- A sweep puts at each place what the byte rule makes of the accumulator there, for the accumulators that follow its rule. -/
theorem getD_sweep (acc : Nat → Byte) (i : Nat) (xs : List Byte)
    (hacc : ∀ k, k < xs.length → acc (k + 1) = next (k + i) (acc k) (xs.getD k 0)) (k : Nat) (hk : k < xs.length) :
    (sweep out next i (acc 0) xs).getD k 0 = out (k + i) (acc k) (xs.getD k 0) := by
  induction xs generalizing acc i k with
  | nil => simp at hk
  | cons x xs ih =>
    have hfirst : acc 1 = next i (acc 0) x := by simpa using hacc 0
    have hshift : ∀ j, j + 1 + i = j + (i + 1) := by omega
    rw [sweep, ← hfirst]
    cases k with
    | zero => simp
    | succ k =>
      have hrest : ∀ j, j < xs.length → acc (j + 1 + 1) = next (j + (i + 1)) (acc (j + 1)) (xs.getD j 0) := fun j hj => by
        rw [hacc (j + 1) (by simpa using hj), hshift, List.getD_cons_succ]
      rw [List.getD_cons_succ, List.getD_cons_succ, hshift]
      exact ih (fun j => acc (j + 1)) (i + 1) hrest k (by simpa using hk)

theorem getD_sweep_sweepAcc (i : Nat) (start : Byte) (xs : List Byte) (k : Nat) (hk : k < xs.length) :
    (sweep out next i start xs).getD k 0 = out (k + i) (sweepAcc next i start xs k) (xs.getD k 0) :=
  getD_sweep (sweepAcc next i start xs) i xs (fun _ _ => rfl) k hk

/-- The rules of two sweeps undo each other: from the byte one puts out the other recovers the byte taken, and its accumulator takes
the same value. -/
structure UndoEachOther (out next out' next' : Nat → Byte → Byte → Byte) : Prop where
  out_out' : ∀ i acc x, out i acc (out' i acc x) = x
  out'_out : ∀ i acc x, out' i acc (out i acc x) = x
  next_out' : ∀ i acc x, next i acc (out' i acc x) = next' i acc x

theorem UndoEachOther.symm (h : UndoEachOther out next out' next') : UndoEachOther out' next' out next where
  out_out' := h.out'_out
  out'_out := h.out_out'
  next_out' i acc x := by rw [← h.next_out', h.out'_out]

/-- The second sweep meets at each position the accumulator the first one had there, so it recovers every byte. -/
theorem UndoEachOther.sweep_sweep (h : UndoEachOther out next out' next') (i : Nat) (acc : Byte) (xs : List Byte) :
    sweep out next i acc (sweep out' next' i acc xs) = xs := by
  induction xs generalizing i acc with
  | nil => rfl
  | cons x xs ih => rw [sweep, sweep, h.out_out', h.next_out', ih]

end

/-! ### Sub-pass A (R153, R156) -/

/-- The value before the XOR with the accumulator, at distance `j`: with the next two, what D17 chooses the accumulator from. -/
def beforeA (j : Nat) (x : Byte) : Byte := rol8 x 3 + BitVec.ofNat 8 j

/-- The value after that XOR. -/
def afterA (j : Nat) (acc x : Byte) : Byte := beforeA j x ^^^ acc

/-- The value after the rotate. -/
def rotatedA (j : Nat) (acc x : Byte) : Byte := ror8 (afterA j acc x) (j % 8)

/-- The byte rule and the accumulator rule of forward sub-pass A. -/
def outA (j : Nat) (acc x : Byte) : Byte := (rotatedA j acc x ^^^ 0xFF) + 0x48

@[inherit_doc outA]
def nextA (tap : Config.Tap) (j : Nat) (acc x : Byte) : Byte :=
  tapValue tap (beforeA j x) (afterA j acc x) (rotatedA j acc x)

/-- The value after the rotate, recovered from the byte `y` the forward sub-pass puts out; the next two are recovered in turn. -/
def rotatedInvA (y : Byte) : Byte := (y - 0x48) ^^^ 0xFF

@[inherit_doc rotatedInvA]
def afterInvA (j : Nat) (y : Byte) : Byte := rol8 (rotatedInvA y) (j % 8)

@[inherit_doc rotatedInvA]
def beforeInvA (j : Nat) (acc y : Byte) : Byte := afterInvA j y ^^^ acc

/-- The byte rule and the accumulator rule of inverse sub-pass A. -/
def outInvA (j : Nat) (acc y : Byte) : Byte := ror8 (beforeInvA j acc y - BitVec.ofNat 8 j) 3

@[inherit_doc outInvA]
def nextInvA (tap : Config.Tap) (j : Nat) (acc y : Byte) : Byte :=
  tapValue tap (beforeInvA j acc y) (afterInvA j y) (rotatedInvA y)

theorem scanA_eq_sweep (tap : Config.Tap) (j : Nat) (acc : Byte) (b : List Byte) :
    scanA tap j acc b = sweep outA (nextA tap) j acc b := by
  induction b generalizing j acc with
  | nil => rfl
  | cons x xs ih => exact congrArg (outA j acc x :: ·) (ih (j + 1) (nextA tap j acc x))

theorem scanInvA_eq_sweep (tap : Config.Tap) (j : Nat) (acc : Byte) (b : List Byte) :
    scanInvA tap j acc b = sweep outInvA (nextInvA tap) j acc b := by
  induction b generalizing j acc with
  | nil => rfl
  | cons x xs ih => exact congrArg (outInvA j acc x :: ·) (ih (j + 1) (nextInvA tap j acc x))

@[simp] theorem rotatedInvA_outA (j : Nat) (acc x : Byte) : rotatedInvA (outA j acc x) = rotatedA j acc x := by
  simp [rotatedInvA, outA]

@[simp] theorem afterInvA_outA (j : Nat) (acc x : Byte) : afterInvA j (outA j acc x) = afterA j acc x := by
  simp [afterInvA, rotatedA]

@[simp] theorem beforeInvA_outA (j : Nat) (acc x : Byte) : beforeInvA j acc (outA j acc x) = beforeA j x := by
  simp [beforeInvA, afterA]

theorem outInvA_outA (j : Nat) (acc x : Byte) : outInvA j acc (outA j acc x) = x := by simp [outInvA, beforeA]

theorem outA_outInvA (j : Nat) (acc y : Byte) : outA j acc (outInvA j acc y) = y := by
  have hbefore : beforeA j (outInvA j acc y) = beforeInvA j acc y := by simp [beforeA, outInvA]
  have hafter : afterA j acc (outInvA j acc y) = afterInvA j y := by simp [afterA, hbefore, beforeInvA]
  have hrotated : rotatedA j acc (outInvA j acc y) = rotatedInvA y := by simp [rotatedA, hafter, afterInvA]
  simp [outA, hrotated, rotatedInvA]

/-- The inverse sub-pass recovers all three values, so the accumulator under every tap. -/
theorem nextInvA_outA (tap : Config.Tap) (j : Nat) (acc x : Byte) :
    nextInvA tap j acc (outA j acc x) = nextA tap j acc x := by
  rw [nextInvA, rotatedInvA_outA, afterInvA_outA, beforeInvA_outA, nextA]

theorem undoEachOther_subPassA (tap : Config.Tap) : UndoEachOther outInvA (nextInvA tap) outA (nextA tap) :=
  ⟨outInvA_outA, outA_outInvA, nextInvA_outA tap⟩

@[simp] theorem invSubPassA_subPassA (tap : Config.Tap) (b : List Byte) : invSubPassA tap (subPassA tap b) = b := by
  simp [invSubPassA, subPassA, scanA_eq_sweep, scanInvA_eq_sweep, (undoEachOther_subPassA tap).sweep_sweep]

@[simp] theorem subPassA_invSubPassA (tap : Config.Tap) (b : List Byte) : subPassA tap (invSubPassA tap b) = b := by
  simp [invSubPassA, subPassA, scanA_eq_sweep, scanInvA_eq_sweep, (undoEachOther_subPassA tap).symm.sweep_sweep]

/-! ### Sub-pass B (R154, R156), on a buffer of `n` bytes -/

/-- The accumulator rule of forward sub-pass B; byte `i` stands at distance `n - i`. -/
def nextB (n i : Nat) (acc x : Byte) : Byte := (rol8 x 4 + BitVec.ofNat 8 (n - i)) ^^^ acc

/-- The byte rule of forward sub-pass B, which takes the accumulator's new value. -/
def outB (n i : Nat) (acc x : Byte) : Byte := ror8 (nextB n i acc x ^^^ 0x13) 3

/-- The accumulator recovered from the byte `y` the forward sub-pass puts out. -/
def nextInvB (_ : Nat) (_ y : Byte) : Byte := rol8 y 3 ^^^ 0x13

/-- The byte rule of inverse sub-pass B. -/
def outInvB (n i : Nat) (acc y : Byte) : Byte := ror8 ((nextInvB i acc y ^^^ acc) - BitVec.ofNat 8 (n - i)) 4

theorem scanB_eq_sweep {n i : Nat} (acc : Byte) (b : List Byte) (h : i + b.length = n) :
    scanB acc b = sweep (outB n) (nextB n) i acc b := by
  induction b generalizing i acc with
  | nil => rfl
  | cons x xs ih =>
    have hdistance : xs.length + 1 = n - i := by rw [List.length_cons] at h; omega
    rw [scanB, hdistance, ih _ (i := i + 1) (by omega)]
    rfl

theorem scanInvB_eq_sweep {n i : Nat} (acc : Byte) (b : List Byte) (h : i + b.length = n) :
    scanInvB acc b = sweep (outInvB n) nextInvB i acc b := by
  induction b generalizing i acc with
  | nil => rfl
  | cons x xs ih =>
    have hdistance : xs.length + 1 = n - i := by rw [List.length_cons] at h; omega
    rw [scanInvB, hdistance, ih _ (i := i + 1) (by omega)]
    rfl

theorem subPassB_eq_sweep (b : List Byte) : subPassB b = sweep (outB b.length) (nextB b.length) 0 0 b :=
  scanB_eq_sweep 0 b (Nat.zero_add _)

theorem invSubPassB_eq_sweep (b : List Byte) : invSubPassB b = sweep (outInvB b.length) nextInvB 0 0 b :=
  scanInvB_eq_sweep 0 b (Nat.zero_add _)

@[simp] theorem length_subPassB (b : List Byte) : (subPassB b).length = b.length := length_scanB 0 b

@[simp] theorem length_invSubPassB (b : List Byte) : (invSubPassB b).length = b.length := length_scanInvB 0 b

theorem nextInvB_outB (n i : Nat) (acc x : Byte) : nextInvB i acc (outB n i acc x) = nextB n i acc x := by
  simp [nextInvB, outB]

theorem outInvB_outB (n i : Nat) (acc x : Byte) : outInvB n i acc (outB n i acc x) = x := by
  rw [outInvB, nextInvB_outB]
  simp [nextB]

theorem outB_outInvB (n i : Nat) (acc y : Byte) : outB n i acc (outInvB n i acc y) = y := by
  simp [outB, nextB, outInvB, nextInvB, BitVec.xor_assoc]

theorem undoEachOther_subPassB (n : Nat) : UndoEachOther (outInvB n) nextInvB (outB n) (nextB n) :=
  ⟨outInvB_outB n, outB_outInvB n, nextInvB_outB n⟩

@[simp] theorem invSubPassB_subPassB (b : List Byte) : invSubPassB (subPassB b) = b := by
  rw [invSubPassB_eq_sweep, length_subPassB, subPassB_eq_sweep, (undoEachOther_subPassB b.length).sweep_sweep]

@[simp] theorem subPassB_invSubPassB (b : List Byte) : subPassB (invSubPassB b) = b := by
  rw [subPassB_eq_sweep, length_invSubPassB, invSubPassB_eq_sweep, (undoEachOther_subPassB b.length).symm.sweep_sweep]

/-! ### The rounds -/

@[simp] theorem obfInvRound_obfRound (tap : Config.Tap) (b : List Byte) : obfInvRound tap (obfRound tap b) = b := by
  rw [obfInvRound, obfRound, invSubPassB_subPassB, invSubPassA_subPassA]

@[simp] theorem obfRound_obfInvRound (tap : Config.Tap) (b : List Byte) : obfRound tap (obfInvRound tap b) = b := by
  rw [obfRound, obfInvRound, subPassA_invSubPassA, subPassB_invSubPassB]

@[simp] theorem obfInv_obfFwd (tap : Config.Tap) (b : List Byte) : obfInv tap (obfFwd tap b) = b := by
  simp only [obfInv, obfFwd, obfInvRound_obfRound]

@[simp] theorem obfFwd_obfInv (tap : Config.Tap) (b : List Byte) : obfFwd tap (obfInv tap b) = b := by
  simp only [obfInv, obfFwd, obfRound_obfInvRound]

/-- Settles O40: a round undoes a round because each inverse sub-pass undoes its forward one. -/
theorem obfuscationIsInvertible : Obligations.ObfuscationIsInvertible := fun tap b =>
  ⟨obfInv_obfFwd tap b, obfFwd_obfInv tap b, length_obfFwd tap b, length_obfInv tap b⟩

/-! ### The sub-passes by index -/

@[simp] theorem length_subPassA (tap : Config.Tap) (b : List Byte) : (subPassA tap b).length = b.length := by
  simp [subPassA]

/-- The byte at distance `k + 1` from the end is byte `k` of the reversed buffer. -/
theorem getD_length_sub (b : List Byte) (k : Nat) (hk : k < b.length) :
    b.getD (b.length - (k + 1)) 0 = b.reverse.getD k 0 := by
  rw [List.getD_reverse k hk, Nat.sub_sub, Nat.add_comm]

/-- Sub-pass A puts at distance `k + 1` what its byte rule makes of the byte there. -/
theorem getD_subPassA (tap : Config.Tap) (b : List Byte) (k : Nat) (hk : k < b.length) :
    (subPassA tap b).getD (b.length - (k + 1)) 0 =
      outA (k + 1) (sweepAcc (nextA tap) 1 0 b.reverse k) (b.reverse.getD k 0) := by
  have hplace := getD_length_sub (subPassA tap b) k (by simpa using hk)
  rw [length_subPassA] at hplace
  rw [hplace, subPassA, List.reverse_reverse, scanA_eq_sweep, getD_sweep_sweepAcc _ _ _ _ (by simpa using hk)]

theorem getD_subPassB (b : List Byte) (i : Nat) (hi : i < b.length) :
    (subPassB b).getD i 0 = outB b.length i (sweepAcc (nextB b.length) 0 0 b i) (b.getD i 0) := by
  rw [subPassB_eq_sweep, getD_sweep_sweepAcc _ _ _ _ hi, Nat.add_zero]

/-- Settles O39: the accumulators are those of the two sweeps, sub-pass A's counted from distance 1. -/
theorem obfuscationSubPassesByIndex : Obligations.ObfuscationSubPassesByIndex := by
  refine fun tap b => ⟨rfl, ⟨length_subPassA tap b, ?_⟩, ⟨length_subPassB b, ?_⟩⟩
  · refine ⟨fun j => sweepAcc (nextA tap) 1 0 b.reverse (j - 1), rfl, fun j hj hjn => ?_⟩
    obtain ⟨k, rfl⟩ := Nat.exists_eq_add_of_le' hj
    rw [getD_subPassA tap b k hjn, getD_length_sub b k hjn]
    exact ⟨_, _, _, rfl, rfl, rfl, by rintro rfl; rfl, by rintro rfl; rfl, by rintro rfl; rfl, rfl⟩
  · refine ⟨sweepAcc (nextB b.length) 0 0 b, rfl, fun i hi => ?_⟩
    exact ⟨rfl, getD_subPassB b i hi⟩

end Sys2Proof.Machine
end

section
/-! PROOFS. The block-cipher layer (spec/44_block_cipher_layer.md). The keystream is one byte function cut to length (R171, R190), and the
chunk loop masks each byte by its offset in its chunk (R174), so a second pass meets the same masks (R176). -/

namespace Sys2Proof.Machine

/-! ### Byte sequences by index -/

/-- Two byte sequences of one length are equal when their bytes are. -/
theorem eq_of_getD_eq {b c : List Byte} (hlen : b.length = c.length) (h : ∀ q, q < c.length → b.getD q 0 = c.getD q 0) :
    b = c := by
  refine List.ext_getElem hlen fun q hb hc => ?_
  rw [← List.getD_eq_getElem b 0 hb, ← List.getD_eq_getElem c 0 hc, h q hc]

theorem getD_take_of_lt (b : List Byte) {n k : Nat} (hk : k < n) : (b.take n).getD k 0 = b.getD k 0 := by
  rw [List.getD_eq_getElem?_getD, List.getElem?_take_of_lt hk, ← List.getD_eq_getElem?_getD]

theorem getD_drop (b : List Byte) (n k : Nat) : (b.drop n).getD k 0 = b.getD (n + k) 0 := by
  rw [List.getD_eq_getElem?_getD, List.getElem?_drop, ← List.getD_eq_getElem?_getD]

/-! ### The keystream -/

/-- Byte `k` of output feedback after the block `o` is a byte of the block that comes from `o` by `k / 16 + 1` encryptions (R190). -/
theorem getD_ofbBlocks (keys : List Bytes16) (n : Nat) (o : Bytes16) (k : Nat) (hk : k < 16 * n) :
    (ofbBlocks keys n o).getD k 0 = ((aesEncryptWith keys)^[k / 16 + 1] o).toList.getD (k % 16) 0 := by
  induction n generalizing o k with
  | zero => omega
  | succ n ih =>
    have hblock : (aesEncryptWith keys o).toList.length = 16 := rfl
    rw [ofbBlocks, Function.iterate_succ_apply]
    by_cases hfirst : k < 16
    · rw [List.getD_append _ _ _ _ (by omega), Nat.div_eq_of_lt hfirst, Nat.mod_eq_of_lt hfirst, Function.iterate_zero_apply]
    · have hdiv : k / 16 = (k - 16) / 16 + 1 := by omega
      have hmod : k % 16 = (k - 16) % 16 := by omega
      rw [List.getD_append_right _ _ _ _ (by omega), hblock, ih _ _ (by omega), ← hdiv, ← hmod]

/-- Byte `k` of the keystream, however many bytes of it are asked for (R171, R190). -/
def keystreamByte (p : Config.Params) (iv : Bytes16) (k : Nat) : Byte :=
  match p.keystream with
  | .aes256Ofb => ((aesEnc p.appKey)^[k / 16 + 1] iv).toList.getD (k % 16) 0
  | .uninterpreted => Config.openKeystream p.appKey iv k

theorem keystreamByte_of_aes256Ofb {p : Config.Params} (h : p.keystream = .aes256Ofb) (iv : Bytes16) (k : Nat) :
    keystreamByte p iv k = ((aesEnc p.appKey)^[k / 16 + 1] iv).toList.getD (k % 16) 0 := by
  rw [keystreamByte, h]

theorem keystreamByte_of_uninterpreted {p : Config.Params} (h : p.keystream = .uninterpreted) (iv : Bytes16) (k : Nat) :
    keystreamByte p iv k = Config.openKeystream p.appKey iv k := by
  rw [keystreamByte, h]

theorem getD_keystream (p : Config.Params) (iv : Bytes16) {n k : Nat} (hk : k < n) :
    (keystream p iv n).getD k 0 = keystreamByte p iv k := by
  unfold keystream keystreamByte
  cases p.keystream with
  | aes256Ofb =>
    change (ofbKeystream p.appKey iv n).getD k 0 = _
    rw [ofbKeystream, getD_take_of_lt _ hk]
    exact getD_ofbBlocks (roundKeys p.appKey) _ iv k (by omega)
  | uninterpreted => simp [hk]

/-- A shorter keystream begins a longer one (R171). -/
theorem take_keystream (p : Config.Params) (iv : Bytes16) {m n : Nat} (hmn : m ≤ n) :
    (keystream p iv n).take m = keystream p iv m := by
  refine eq_of_getD_eq (by simpa using hmn) fun q hq => ?_
  rw [length_keystream] at hq
  rw [getD_take_of_lt _ hq, getD_keystream p iv hq, getD_keystream p iv (hq.trans_le hmn)]

/-- Settles O42: byte `k` of the keystream does not depend on how many bytes are asked for. -/
theorem keystreamIsConsistent : Obligations.KeystreamIsConsistent := by
  refine fun p iv m n hmn => ⟨length_keystream p iv n, take_keystream p iv hmn, fun k hk => ?_⟩
  rw [getD_keystream p iv hk]
  exact ⟨fun h => keystreamByte_of_aes256Ofb h iv k, fun h => keystreamByte_of_uninterpreted h iv k⟩

/-! ### The layer -/

theorem getD_xorBytes {b ks : List Byte} {k : Nat} (hb : k < b.length) (hks : k < ks.length) :
    (xorBytes b ks).getD k 0 = b.getD k 0 ^^^ ks.getD k 0 := by
  simp [xorBytes, hb, hks]

/-- The offset of byte `q` in its chunk, where the first chunk has `chunk` bytes and every later one 1460 (R174's `off`). -/
def chunkOffset (chunk q : Nat) : Nat := if q < chunk then q else (q - chunk) % laterChunk

/-- Past its first chunk a target is one whose chunks all have 1460 bytes. -/
theorem chunkOffset_of_le {chunk q : Nat} (h : chunk ≤ q) : chunkOffset chunk q = chunkOffset laterChunk (q - chunk) := by
  rw [chunkOffset, if_neg (Nat.not_lt.mpr h), chunkOffset]
  split
  next hlt => exact Nat.mod_eq_of_lt hlt
  next hge => exact Nat.mod_eq_sub_mod (Nat.not_lt.mp hge)

/-- The chunk loop masks byte `q` with the keystream byte of its offset in its chunk, while it has fuel for every byte and the keystream
reaches as far as a chunk can (R174). -/
theorem getD_bclChunks (ks : List Byte) (fuel chunk : Nat) (b : List Byte) (hpos : 0 < chunk) (hchunk : chunk ≤ laterChunk)
    (hfuel : b.length ≤ fuel) (hks : min b.length laterChunk ≤ ks.length) (q : Nat) (hq : q < b.length) :
    (bclChunks ks fuel chunk b).getD q 0 = b.getD q 0 ^^^ ks.getD (chunkOffset chunk q) 0 := by
  induction fuel generalizing chunk b q with
  | zero => omega
  | succ fuel ih =>
    have hsplit : bclChunks ks (fuel + 1) chunk b =
        xorBytes (b.take chunk) ks ++ bclChunks ks fuel laterChunk (b.drop chunk) := by
      cases b with
      | nil => simp at hq
      | cons x xs => rfl
    have hrest : (b.drop chunk).length = b.length - chunk := List.length_drop
    have hmasked : (xorBytes (b.take chunk) ks).length = min chunk b.length := by
      simp only [xorBytes, List.length_zipWith, List.length_take]
      omega
    rw [hsplit]
    by_cases hfirst : q < chunk
    · rw [List.getD_append _ _ _ _ (by omega), getD_xorBytes (by rw [List.length_take]; omega) (by omega), getD_take_of_lt b hfirst,
        chunkOffset, if_pos hfirst]
    · have hplace : q - min chunk b.length = q - chunk := by omega
      have hbyte : (b.drop chunk).getD (q - chunk) 0 = b.getD q 0 := by
        rw [getD_drop, Nat.add_sub_cancel' (Nat.not_lt.mp hfirst)]
      rw [List.getD_append_right _ _ _ _ (by omega), hmasked, hplace, chunkOffset_of_le (Nat.not_lt.mp hfirst), ← hbyte]
      exact ih laterChunk (b.drop chunk) (by decide) le_rfl (by omega) (by omega) (q - chunk) (by omega)

/-- The offset lies in the keystream the layer asks for: in the chunk, and not beyond the byte's own place. -/
theorem chunkOffset_lt {chunk q n : Nat} (hchunk : chunk ≤ laterChunk) (hq : q < n) : chunkOffset chunk q < min n laterChunk := by
  have hmod : (q - chunk) % laterChunk < laterChunk := Nat.mod_lt _ (by decide)
  have hle : (q - chunk) % laterChunk ≤ q - chunk := Nat.mod_le _ _
  unfold chunkOffset
  split <;> omega

/-- Byte `q` of the layer, by its keystream byte (R174). -/
theorem getD_bcl (p : Config.Params) (iv : Bytes16) (b : List Byte) (q : Nat) (hq : q < b.length) :
    (bcl p iv b).getD q 0 = b.getD q 0 ^^^ keystreamByte p iv (chunkOffset firstChunk q) := by
  rw [bcl, getD_bclChunks _ _ _ _ (by decide) (by decide) le_rfl (by simp) q hq,
    getD_keystream p iv (chunkOffset_lt (by decide) hq)]

/-- Settles O43: the keystream byte of an offset is the same in the whole keystream of a chunk. -/
theorem layerMasksByChunkOffset : Obligations.LayerMasksByChunkOffset := by
  refine fun p iv b => ⟨length_bcl p iv b, fun q hq => ?_⟩
  have hoffset : chunkOffset firstChunk q < 1460 := (chunkOffset_lt (by decide) hq).trans_le (Nat.min_le_right _ _)
  rw [getD_bcl p iv b q hq, ← getD_keystream p iv hoffset]
  rfl

@[simp] theorem bcl_bcl (p : Config.Params) (iv : Bytes16) (b : List Byte) : bcl p iv (bcl p iv b) = b := by
  refine eq_of_getD_eq (by simp) fun q hq => ?_
  rw [getD_bcl p iv (bcl p iv b) q (by simpa using hq), getD_bcl p iv b q hq, BitVec.xor_assoc, BitVec.xor_self, BitVec.xor_zero]

/-- Settles O44: both passes mask a byte by the offset of its place, and equal masks cancel. -/
theorem layerIsSelfInverse : Obligations.LayerIsSelfInverse := bcl_bcl

/-! ### The command -/

/-- The command word of a command that names a context: its opcode, and the context number from bit 8 on (R71). -/
theorem commandWord_context {opc : BitVec 8} {c : Nat} (hc : c < 16) :
    commandWord opc c false = BitVec.ofNat 32 (opc.toNat + 256 * c) := by
  have hopc := opc.isLt
  have hword : (BitVec.ofNat 32 (opc.toNat + 256 * c)).toNat = opc.toNat + 256 * c := by
    rw [BitVec.toNat_ofNat]
    omega
  refine word_ext_iff.mpr ?_
  rw [rsvField_commandWord, sgnField_commandWord, ctxField_commandWord, opcField_commandWord]
  simp only [← BitVec.toNat_inj, toNat_rsvField, toNat_sgnField, toNat_ctxField, toNat_opcField, hword, BitVec.toNat_ofNat,
    BitVec.toNat_ofBool, Bool.toNat_false, BitVec.ofNat_eq_ofNat]
  omega

/-- A valid context of the block is the one the command goes on with (R83). -/
theorem State.withValidContext_of_valid {s : State} {c : Nat} {x : Context} (hx : s.ctx[c]? = some x) (hvalid : x.valid = true)
    (k : Context → State) : s.withValidContext c k = k x := by
  simp [State.withValidContext, State.withContext, hx, hvalid]

/-- Settles O45: on a valid context the command is the in-place transform by the layer, which keeps the length. -/
theorem bclApplyMasksTheRange : Obligations.BclApplyMasksTheRange := by
  refine ⟨fun c hc => commandWord_context hc, fun s c x b ⟨hmem, _⟩ hx hvalid hin hlen hbytes => ?_⟩
  have hexec : exec (.bclApply c) s = .next (s.transformRange (bcl s.cfg x.key)) :=
    congrArg Host.Outcome.next (State.withValidContext_of_valid hx hvalid _)
  exact replacesRange_of_transformRange hexec hmem hin hlen hbytes (length_bcl s.cfg x.key b)

end Sys2Proof.Machine
end

section
/-! PROOFS. The default block cipher (spec/45_aes256_ofb.md), read by its indices: byte `r` of word or column `c`. Each operation of a
round has one rule for the bytes it leaves, and the key schedule and the states after each round are indexed, so that the recurrences of
R189 and R191 are these rules at an index. -/

namespace Sys2Proof

/-- Byte `r` of a word, for `r` up to 3. -/
def Bytes4.byte (w : Bytes4) : Nat → Byte
  | 0 => w.b0
  | 1 => w.b1
  | 2 => w.b2
  | _ => w.b3

/-- Column `c` of a block, for `c` up to 3 (R188). -/
def Bytes16.col (s : Bytes16) : Nat → Bytes4
  | 0 => s.q0
  | 1 => s.q1
  | 2 => s.q2
  | _ => s.q3

end Sys2Proof

namespace Sys2Proof.Machine

/-! ### The S-box (R187) -/

theorem rol8_xor (a b : Byte) (n : Nat) : rol8 (a ^^^ b) n = rol8 a n ^^^ rol8 b n := by
  refine BitVec.eq_of_getLsbD_eq fun i hi => ?_
  simp [getLsbD_rol8 _ n i hi]

theorem rol8_rol8 (v : Byte) (m n : Nat) : rol8 (rol8 v m) n = rol8 v ((m + n) % 8) := by
  refine BitVec.eq_of_getLsbD_eq fun i hi => ?_
  rw [getLsbD_rol8 _ n i hi, getLsbD_rol8 v m _ (Nat.mod_lt _ (by decide)), getLsbD_rol8 v _ i hi]
  congr 1
  omega

theorem rol8_zero (v : Byte) : rol8 v 0 = v := by
  refine BitVec.eq_of_getLsbD_eq fun i hi => ?_
  rw [getLsbD_rol8 v 0 i hi]
  congr 1
  omega

/-- The inverse of the affine step: of the fifteen rotations of a byte that the two make together, all but the byte itself come in
pairs. -/
def sboxAffineInv (x : Byte) : Byte := rol8 (x ^^^ 0x63) 1 ^^^ rol8 (x ^^^ 0x63) 3 ^^^ rol8 (x ^^^ 0x63) 6

theorem sboxAffine_sboxAffineInv (x : Byte) : sboxAffine (sboxAffineInv x) = x := by
  have hleftcomm : ∀ a b c : Byte, a ^^^ (b ^^^ c) = b ^^^ (a ^^^ c) := fun a b c => by
    rw [← BitVec.xor_assoc, BitVec.xor_comm a, BitVec.xor_assoc]
  obtain ⟨y, rfl⟩ : ∃ y, x = y ^^^ 0x63 := ⟨x ^^^ 0x63, by simp⟩
  have hmask : y ^^^ 0x63 ^^^ 0x63 = y := by simp
  simp only [sboxAffine, sboxAffineInv, hmask, rol8_xor, rol8_rol8, Nat.reduceAdd, Nat.reduceMod, rol8_zero]
  simp only [BitVec.xor_assoc, BitVec.xor_comm, hleftcomm, xor_cancel_left, BitVec.xor_self, BitVec.xor_zero]

/-- The table against the field, entry by entry: undoing the affine step of an entry leaves the inverse of its index. -/
theorem gmul_sboxAffineInv_sbox : ∀ a : Byte, a ≠ 0 → gmul a (sboxAffineInv (sbox a)) = 1 := by
  decide +kernel

/-- Settles O46: undoing the affine step of an entry gives the inverse that R187 takes, and redoing it gives the entry back. -/
theorem sboxIsTheAffineInverse : Obligations.SboxIsTheAffineInverse :=
  ⟨by decide, fun a ha => ⟨sboxAffineInv (sbox a), gmul_sboxAffineInv_sbox a ha, (sboxAffine_sboxAffineInv (sbox a)).symm⟩⟩

/-! ### Products by 2 and 3 -/

theorem xtime_eq_twice (a : Byte) : xtime a = twice a := by
  unfold xtime twice
  rw [BitVec.msb_eq_getLsbD_last]
  split <;> simp_all

theorem gmul_two (a : Byte) : gmul a 2 = twice a := by
  simp [gmul, gmulBits, xtime_eq_twice]

theorem gmul_three (a : Byte) : gmul a 3 = twice a ^^^ a := by
  simp [gmul, gmulBits, xtime_eq_twice, BitVec.xor_comm]

/-! ### Bytes by index -/

/-- Byte `4 * i + r` of words in sequence is byte `r` of word `i`. -/
theorem getD_flatMap_toList (ws : List Bytes4) (i r : Nat) (hi : i < ws.length) (hr : r < 4) :
    (ws.flatMap Bytes4.toList).getD (4 * i + r) 0 = (ws.getD i default).byte r := by
  induction ws generalizing i with
  | nil => simp at hi
  | cons x xs ih =>
    have hx : x.toList.length = 4 := rfl
    rw [List.flatMap_cons]
    cases i with
    | zero =>
      rw [Nat.mul_zero, Nat.zero_add, List.getD_append _ _ _ _ (by omega)]
      interval_cases r <;> rfl
    | succ i =>
      rw [List.getD_append_right _ _ _ _ (by omega), hx, show 4 * (i + 1) + r - 4 = 4 * i + r by omega]
      exact ih i (by simpa using hi)

/-- Byte `4 * c + r` of a block is byte `r` of its column `c` (R188). -/
theorem Bytes16.getD_toList (s : Bytes16) {r c : Nat} (hr : r < 4) (hc : c < 4) :
    s.toList.getD (4 * c + r) 0 = (s.col c).byte r := by
  interval_cases c <;> interval_cases r <;> rfl

@[simp] theorem byte_xor4 (a b : Bytes4) (r : Nat) : (xor4 a b).byte r = a.byte r ^^^ b.byte r := by
  unfold Bytes4.byte
  split <;> rfl

@[simp] theorem byte_subWord (a : Bytes4) (r : Nat) : (subWord a).byte r = sbox (a.byte r) := by
  unfold Bytes4.byte
  split <;> rfl

theorem byte_rotWord (a : Bytes4) {r : Nat} (hr : r < 4) : (rotWord a).byte r = a.byte ((r + 1) % 4) := by
  interval_cases r <;> rfl

/-! ### The key schedule (R189) -/

/-- Word `i` of the key schedule. -/
def keyWord (key : Bytes32) (i : Nat) : Bytes4 := (keyWords key ++ scheduleFrom 52 8 0x01 (keyWords key)).getD i default

/-- From word 8 on, a word is the word eight before it, XORed with the term of the word before it. -/
theorem keyWord_recurrence (key : Bytes32) {i : Nat} (hlo : 8 ≤ i) (hhi : i < 60) :
    keyWord key i = xor4 (keyWord key (i - 8)) (scheduleTerm i (rcAfter 8 (i - 8) 0x01) (keyWord key (i - 1))) := by
  obtain ⟨k, rfl⟩ := Nat.exists_eq_add_of_le' hlo
  have h := scheduleFrom_recurrence 52 8 k 0x01 (keyWords key) rfl (by omega)
  rw [Nat.add_comm 8 k] at h
  exact h

/-- Every eight words the round constant is doubled once. -/
theorem rcAfter_eight_mul (m j : Nat) (rc : Byte) : rcAfter (8 * m) (8 * j) rc = xtime^[j] rc := by
  induction j generalizing m rc with
  | zero => rfl
  | succ j ih =>
    have hstep : rcAfter (8 * m) (8 * (j + 1)) rc = rcAfter (8 * (m + 1)) (8 * j) (xtime rc) := by
      simp [Nat.mul_add, rcAfter, nextRc, Nat.add_assoc]
    rw [hstep, ih, Function.iterate_succ_apply]

/-- The round constants of AES-256 are the powers of 2 below the field's modulus. -/
theorem iterate_xtime_one : ∀ j, j < 7 → xtime^[j] 0x01 = BitVec.ofNat 8 (2 ^ j) := by decide

theorem isKeySchedule_keyWord (key : Bytes32) : IsKeySchedule key fun i r => (keyWord key i).byte r where
  first i r hi hr := by
    have hbytes : key.lo.toList ++ key.hi.toList = (keyWords key).flatMap Bytes4.toList := rfl
    have hword : keyWord key i = (keyWords key).getD i default := List.getD_append _ _ _ _ hi
    rw [hbytes, getD_flatMap_toList (keyWords key) i r hi hr, hword]
  rotated i r hlo hhi hmod hr := by
    have hrc : rcAfter 8 (i - 8) 0x01 = BitVec.ofNat 8 (2 ^ (i / 8 - 1)) := by
      rw [show i - 8 = 8 * (i / 8 - 1) by omega, ← iterate_xtime_one _ (by omega)]
      exact rcAfter_eight_mul 1 _ _
    rw [keyWord_recurrence key hlo hhi, scheduleTerm, if_pos hmod, hrc, byte_xor4, byte_xor4, byte_subWord, byte_rotWord _ hr,
      ← BitVec.xor_assoc]
    interval_cases r <;> rfl
  substituted i r hlo hhi hmod _ := by
    rw [keyWord_recurrence key hlo hhi, scheduleTerm, if_neg (by omega), if_pos hmod, byte_xor4, byte_subWord]
  plain i r hlo hhi hmod _ := by
    rw [keyWord_recurrence key hlo hhi, scheduleTerm, if_neg (by omega), if_neg (by omega), byte_xor4]

/-! ### The round keys (R188) -/

theorem length_groupByFour (ws : List Bytes4) : (groupByFour ws).length = ws.length / 4 := by
  fun_induction groupByFour ws with
  | case1 a b c d rest ih =>
    simp only [List.length_cons, ih]
    omega
  | case2 ws hshort =>
    rcases ws with _ | ⟨a, _ | ⟨b, _ | ⟨c, _ | ⟨d, rest⟩⟩⟩⟩
    case cons.cons.cons.cons => exact (hshort a b c d rest rfl).elim
    all_goals simp

/-- Column `c` of group `n` is word `4 * n + c`. -/
theorem col_groupByFour (ws : List Bytes4) (n : Nat) {c : Nat} (hc : c < 4) (hn : n < (groupByFour ws).length) :
    ((groupByFour ws).getD n default).col c = ws.getD (4 * n + c) default := by
  fun_induction groupByFour ws generalizing n with
  | case1 x y z u rest ih =>
    cases n with
    | zero => interval_cases c <;> rfl
    | succ n =>
      rw [show 4 * (n + 1) + c = 4 * n + c + 1 + 1 + 1 + 1 by omega]
      exact ih n (by simpa using hn)
  | case2 ws _ => simp at hn

@[simp] theorem length_roundKeys (key : Bytes32) : (roundKeys key).length = 15 := by
  have hwords : (keyWords key).length = 8 := rfl
  rw [roundKeys, length_groupByFour, List.length_append, length_scheduleFrom, hwords]

/-- Round key `n`, with 0 the one before the first round. -/
def roundKey (key : Bytes32) (n : Nat) : Bytes16 := (roundKeys key).getD n default

/-- The columns of round key `n` are the words from `4 * n` on. -/
theorem col_roundKey (key : Bytes32) {n c : Nat} (hn : n < 15) (hc : c < 4) :
    (roundKey key n).col c = keyWord key (4 * n + c) :=
  col_groupByFour _ n hc (by rw [← roundKeys, length_roundKeys]; exact hn)

/-! ### The operations of a round, by column (R191) -/

theorem col_addRoundKey (s k : Bytes16) (c : Nat) : (addRoundKey s k).col c = xor4 (s.col c) (k.col c) := by
  unfold Bytes16.col
  split <;> rfl

theorem col_mixColumns (s : Bytes16) (c : Nat) : (mixColumns s).col c = mixColumn (s.col c) := by
  unfold Bytes16.col
  split <;> rfl

/-- `SubBytes` and `ShiftRows`, the part that every round has. -/
theorem byte_col_shiftRows_subBytes (s : Bytes16) {r c : Nat} (hr : r < 4) (hc : c < 4) :
    ((shiftRows (subBytes s)).col c).byte r = sbox ((s.col ((c + r) % 4)).byte r) := by
  interval_cases c <;> interval_cases r <;> rfl

theorem mixColumn_eq_twice (a : Bytes4) :
    mixColumn a =
      ⟨twice a.b0 ^^^ (twice a.b1 ^^^ a.b1) ^^^ a.b2 ^^^ a.b3,
       a.b0 ^^^ twice a.b1 ^^^ (twice a.b2 ^^^ a.b2) ^^^ a.b3,
       a.b0 ^^^ a.b1 ^^^ twice a.b2 ^^^ (twice a.b3 ^^^ a.b3),
       (twice a.b0 ^^^ a.b0) ^^^ a.b1 ^^^ a.b2 ^^^ twice a.b3⟩ := by
  rw [mixColumn]
  simp only [gmul_two, gmul_three]

/-! ### The states after each round (R191) -/

/-- The state after round `n` of the fourteen, `k n` being round key `n`: every round but the last mixes the columns. -/
def stateAfter (k : Nat → Bytes16) (block : Bytes16) : Nat → Bytes16
  | 0 => addRoundKey block (k 0)
  | n + 1 =>
    let shifted := shiftRows (subBytes (stateAfter k block n))
    addRoundKey (if n < 13 then mixColumns shifted else shifted) (k (n + 1))

theorem stateAfter_middle (k : Nat → Bytes16) (block : Bytes16) {n : Nat} (hn : n < 13) :
    stateAfter k block (n + 1) = addRoundKey (mixColumns (shiftRows (subBytes (stateAfter k block n)))) (k (n + 1)) := by
  rw [stateAfter, if_pos hn]

theorem stateAfter_last (k : Nat → Bytes16) (block : Bytes16) :
    stateAfter k block 14 = addRoundKey (shiftRows (subBytes (stateAfter k block 13))) (k 14) := rfl

/-- With `m + 1` round keys left, the rounds that remain lead to the state after the last. -/
theorem aesRounds_stateAfter (k : Nat → Bytes16) (block : Bytes16) (m n : Nat) (hmn : n + m = 13) :
    aesRounds ((List.range' (n + 1) (m + 1)).map k) (stateAfter k block n) = stateAfter k block 14 := by
  induction m generalizing n with
  | zero =>
    obtain rfl : n = 13 := hmn
    rfl
  | succ m ih =>
    rw [← ih (n + 1) (by omega), stateAfter_middle k block (by omega)]
    rfl

theorem roundKeys_eq_map (key : Bytes32) : roundKeys key = (List.range' 0 15).map (roundKey key) := by
  refine List.ext_getElem (by simp) fun n hn _ => ?_
  rw [List.getElem_map, List.getElem_range', Nat.zero_add, Nat.one_mul, roundKey, List.getD_eq_getElem _ _ hn]

theorem aesEnc_eq_stateAfter (key : Bytes32) (block : Bytes16) : aesEnc key block = stateAfter (roundKey key) block 14 := by
  rw [aesEnc, roundKeys_eq_map]
  exact aesRounds_stateAfter (roundKey key) block 13 0 rfl

theorem isEncryption_stateAfter (key : Bytes32) (block : Bytes16) :
    IsEncryption (fun i r => (keyWord key i).byte r) block (aesEnc key block)
      fun n r c => ((stateAfter (roundKey key) block n).col c).byte r where
  start r c hr hc := by
    rw [stateAfter, col_addRoundKey, byte_xor4, Bytes16.getD_toList block hr hc, col_roundKey key (by decide) hc, Nat.mul_zero,
      Nat.zero_add]
  middle n c hlo hhi hc a ha := by
    obtain ⟨m, rfl⟩ := Nat.exists_eq_add_of_le' hlo
    have hbyte : ∀ r, r < 4 → ((shiftRows (subBytes (stateAfter (roundKey key) block m))).col c).byte r = a r :=
      fun r hr => (byte_col_shiftRows_subBytes _ hr hc).trans (ha r).symm
    have hcol : (shiftRows (subBytes (stateAfter (roundKey key) block m))).col c = ⟨a 0, a 1, a 2, a 3⟩ := by
      rw [← hbyte 0 (by decide), ← hbyte 1 (by decide), ← hbyte 2 (by decide), ← hbyte 3 (by decide)]
      rfl
    simp only [stateAfter_middle (roundKey key) block (show m < 13 by omega), col_addRoundKey, byte_xor4, col_mixColumns, hcol,
      mixColumn_eq_twice, col_roundKey key (show m + 1 < 15 by omega) hc]
    exact ⟨rfl, rfl, rfl, rfl⟩
  last r c hr hc := by
    rw [stateAfter_last, col_addRoundKey, byte_xor4, byte_col_shiftRows_subBytes _ hr hc, col_roundKey key (by decide) hc]
  result r c hr hc := by
    rw [Bytes16.getD_toList _ hr hc, aesEnc_eq_stateAfter]

/-- Settles O47: the key schedule is the model's words, and the states are those after each of its rounds. -/
theorem aesFollowsItsRounds : Obligations.AesFollowsItsRounds :=
  fun key block => ⟨_, _, isKeySchedule_keyWord key, isEncryption_stateAfter key block⟩

end Sys2Proof.Machine
end

section
/-! PROOFS. The header codec (spec/46_header_codec.md). A 16-bit value is read as its high byte beside its low byte, a 32-bit one as its
four bytes side by side: each shift, mask or product of a listing then puts a byte in its place, and the key and the version cancel
between the two halves of a header (R206). -/

namespace Sys2Proof.Machine

/-! ### Values by their bytes -/

/-- Two bytes that lie side by side in a value are sixteen bits of it. -/
theorem extractLsb'_append_bytes {w : Nat} (v : BitVec w) (k : Nat) :
    (v.extractLsb' (k + 8) 8 ++ v.extractLsb' k 8 : BitVec 16) = v.extractLsb' k 16 :=
  BitVec.extractLsb'_append_extractLsb'_eq_extractLsb' rfl

theorem exists_eq_append (v : BitVec 16) : ∃ hi lo : Byte, v = hi ++ lo :=
  ⟨v.extractLsb' 8 8, v.extractLsb' 0 8, ((extractLsb'_append_bytes v 0).trans BitVec.extractLsb'_eq_self).symm⟩

/-- The low byte and the shifted high byte, joined by OR, stand side by side. -/
theorem or_shiftLeft_eq_append (hi lo : Byte) : lo.setWidth 16 ||| (hi.setWidth 16 <<< 8) = hi ++ lo := by
  rw [BitVec.or_comm, ← BitVec.setWidth_append_eq_shiftLeft_setWidth_or]
  exact BitVec.setWidth_eq _

/-- A product by 256 is a shift by a byte, and a sum without a carry is an OR. -/
theorem add_mul_eq_append (hi lo : Byte) : lo.setWidth 16 + hi.setWidth 16 * 256 = hi ++ lo := by
  apply BitVec.eq_of_toNat_eq
  rw [BitVec.toNat_append, ← Nat.shiftLeft_add_eq_or_of_lt lo.isLt, Nat.shiftLeft_eq]
  simp only [BitVec.toNat_add, BitVec.toNat_mul, BitVec.toNat_setWidth, BitVec.ofNat_eq_ofNat, BitVec.toNat_ofNat]
  omega

theorem setWidth_shiftRight_append (hi lo : Byte) : ((hi ++ lo : BitVec 16) >>> 8).setWidth 8 = hi := by
  rw [BitVec.setWidth_ushiftRight_eq_extractLsb]
  exact BitVec.extractLsb'_append_eq_left

theorem setWidth_and_append (hi lo : Byte) : ((hi ++ lo : BitVec 16) &&& 0xFF).setWidth 8 = lo := by
  rw [BitVec.setWidth_and, show (0xFF : BitVec 16).setWidth 8 = BitVec.allOnes 8 from rfl, BitVec.and_allOnes]
  exact BitVec.setWidth_append_eq_right

/-- Bit `i` of the swapped value is bit `i + 8` below the middle and bit `i - 8` above it (R11). -/
theorem byteswap16_eq_append (v : BitVec 16) : byteswap16 v = v.extractLsb' 0 8 ++ v.extractLsb' 8 8 := by
  refine BitVec.eq_of_getLsbD_eq fun i hi => ?_
  rw [byteswap16, BitVec.getLsbD_append]
  by_cases hlow : i < 8
  · simp [hlow]
  · have hplace : i - 8 < 8 := by omega
    simp [hi, hlow, hplace, BitVec.getLsbD_of_ge v (8 + i) (by omega), -BitVec.getLsbD_eq_getElem]

theorem byteswap16_append (hi lo : Byte) : byteswap16 (hi ++ lo) = lo ++ hi := by
  rw [byteswap16_eq_append, BitVec.extractLsb'_append_eq_right, BitVec.extractLsb'_append_eq_left]

theorem packBytes4_eq_append (w : Bytes4) : packBytes4 w = w.b3 ++ w.b2 ++ w.b1 ++ w.b0 := by
  have h := BitVec.setWidth_append_append_append_eq_shiftLeft_setWidth_or (w'''' := 32) (b := w.b3) (b' := w.b2) (b'' := w.b1)
    (b''' := w.b0)
  rw [BitVec.setWidth_eq, BitVec.or_comm _ (w.b0.setWidth 32), BitVec.or_comm _ (w.b1.setWidth 32 <<< 8),
    BitVec.or_comm _ (w.b2.setWidth 32 <<< (8 + 8)), ← BitVec.or_assoc, ← BitVec.or_assoc] at h
  exact h.symm

/-! ### The version code (R200, R201) -/

@[simp] theorem byteswap16_byteswap16 (v : BitVec 16) : byteswap16 (byteswap16 v) = v := by
  obtain ⟨hi, lo, rfl⟩ := exists_eq_append v
  rw [byteswap16_append, byteswap16_append]

theorem decodeVersion_encodeVersion (v : BitVec 16) : decodeVersion (encodeVersion v) = v := by
  rw [decodeVersion, encodeVersion, byteswap16_byteswap16, sub_sub_cancel]

theorem encodeVersion_decodeVersion (v : BitVec 16) : encodeVersion (decodeVersion v) = v := by
  rw [decodeVersion, encodeVersion, sub_sub_cancel, byteswap16_byteswap16]

/-- Settles O48: swapping two bytes and subtracting from 0xFFFF each undo themselves. -/
theorem versionCodecIsInvertible : Obligations.VersionCodecIsInvertible := fun v =>
  ⟨byteswap16_eq_append (0xFFFF - v), congrArg (0xFFFF - ·) (byteswap16_eq_append v), decodeVersion_encodeVersion v,
    encodeVersion_decodeVersion v⟩

/-! ### The header (R203, R205) -/

/-- A header by its bytes: those of the masked `iv`, then the same masked by the bytes of the length in swapped order (R203). -/
theorem hdrBuild_of_headerIv {key : Bytes16} {ver : BitVec 16} {n : Nat} {hi lo lenHi lenLo : Byte}
    (hiv : headerIv key ver = hi ++ lo) (hlen : BitVec.ofNat 16 n = lenHi ++ lenLo) :
    hdrBuild key ver n = ⟨hi, lo, hi ^^^ lenLo, lo ^^^ lenHi⟩ := by
  have hmasked : headerIv key ver ^^^ byteswap16 (BitVec.ofNat 16 n) = (hi ^^^ lenLo) ++ (lo ^^^ lenHi) := by
    rw [hiv, hlen, byteswap16_append]
    exact BitVec.xor_append
  simp only [hdrBuild, hmasked]
  rw [hiv]
  simp only [setWidth_shiftRight_append, setWidth_and_append]

theorem hdrGetLen_eq_xor (h0 h1 h2 h3 : Byte) : hdrGetLen ⟨h0, h1, h2, h3⟩ = (h1 ++ h0) ^^^ (h3 ++ h2) := by
  rw [hdrGetLen, add_mul_eq_append, add_mul_eq_append]

/-- Settles O49: the bytes of the masked `iv` stand in both halves of the header and cancel. -/
theorem headerLengthIsRecovered : Obligations.HeaderLengthIsRecovered := by
  intro key ver n
  obtain ⟨hi, lo, hiv⟩ := exists_eq_append (headerIv key ver)
  obtain ⟨lenHi, lenLo, hlen⟩ := exists_eq_append (BitVec.ofNat 16 n)
  rw [hdrBuild_of_headerIv hiv hlen, hdrGetLen_eq_xor, hlen, BitVec.xor_append, xor_cancel_left, xor_cancel_left]

/-! ### The commands (R207, R208) -/

theorem headerIv_eq_append (key : Bytes16) (ver : BitVec 16) :
    headerIv key ver = (key.q0.b2 ^^^ ver.extractLsb' 8 8) ++ (key.q0.b3 ^^^ ver.extractLsb' 0 8) := by
  obtain ⟨hi, lo, rfl⟩ := exists_eq_append ver
  rw [headerIv, or_shiftLeft_eq_append, BitVec.extractLsb'_append_eq_left, BitVec.extractLsb'_append_eq_right]
  exact BitVec.xor_append

/-- Settles O51: on a valid context the answer is the packed header, its bytes by those of the key, the version code and `ARG0`. -/
theorem hdrBuildReturnsTheHeader : Obligations.HdrBuildReturnsTheHeader := by
  refine ⟨fun c hc => commandWord_context hc, fun s c x h0 h1 hx hvalid h0def h1def => ?_⟩
  have hexec : exec (.hdrBuild c) s =
      .next (s.okWith (field32 (packBytes4 (hdrBuild x.key x.ver (narrow 16 s.arg0).toNat))) 0 []) :=
    congrArg Host.Outcome.next (State.withValidContext_of_valid hx hvalid _)
  have hiv : headerIv x.key x.ver = h0 ++ h1 := by rw [headerIv_eq_append, ← h0def, ← h1def]
  have hlen : BitVec.ofNat 16 (narrow 16 s.arg0).toNat = s.arg0.extractLsb' 8 8 ++ s.arg0.extractLsb' 0 8 := by
    rw [BitVec.ofNat_toNat, BitVec.setWidth_eq]
    exact (extractLsb'_append_bytes s.arg0 0).symm
  rw [hexec, hdrBuild_of_headerIv hiv hlen, packBytes4_eq_append, State.okWith_eq_answered, field32]

/-- Parsing four packed bytes is the XOR of the value's two halves (R207). -/
theorem hdrGetLen_unpackBytes4 (v : Word32) : hdrGetLen (unpackBytes4 v) = v.extractLsb' 0 16 ^^^ v.extractLsb' 16 16 := by
  rw [unpackBytes4, hdrGetLen_eq_xor]
  exact congrArg₂ (· ^^^ ·) (extractLsb'_append_bytes v 0) (extractLsb'_append_bytes v 16)

/-- Settles O50: both halves lie in the low 32 bits that the command reads. -/
theorem hdrGetlenXorsTheHalves : Obligations.HdrGetlenXorsTheHalves := by
  refine ⟨rfl, fun s => ?_⟩
  have hexec : exec .hdrGetlen s = .next (s.okWith (field16 (hdrGetLen (unpackBytes4 (narrow 32 s.arg0)))) 0 []) := rfl
  rw [hexec, hdrGetLen_unpackBytes4, narrow, BitVec.extractLsb'_extractLsb'_of_le (by decide),
    BitVec.extractLsb'_extractLsb'_of_le (by decide), State.okWith_eq_answered, field16]

end Sys2Proof.Machine
end

section
/-! PROOFS. The cipher-state commands (spec/47_cipher_state.md R216 to R223). On a valid context each is one record update or one block
store, and a block that fills the range replaces it; the header `CS_ENCRYPT` stores lies below the payload it reads. -/

namespace Sys2Proof.Machine

/-! ### Blocks in memory -/

/-- A block made of two holds each of them, one after the other (R52). -/
theorem Memory.Holds.of_append {m : Memory} {lo : Nat} {b c : List Byte} (h : m.Holds lo (b ++ c)) :
    m.Holds lo b ∧ m.Holds (lo + b.length) c := by
  refine ⟨fun k hk => ?_, fun k hk => ?_⟩
  · rw [h k (by rw [List.length_append]; omega), List.getElem_append_left]
  · rw [Nat.add_assoc, h (b.length + k) (by simpa using hk), List.getElem_append_right (Nat.le_add_right ..)]
    simp only [Nat.add_sub_cancel_left]

/-- A block below the changed addresses stays. -/
theorem Memory.Holds.of_sameOutside {m m' : Memory} {lo lo' n : Nat} {b : List Byte} (h : m.Holds lo b)
    (hout : m.SameOutside m' lo' n) (hbelow : lo + b.length ≤ lo') : m'.Holds lo b :=
  fun k hk => (hout (lo + k) (.inl (by omega))).trans (h k hk)

/-- Four bytes that stand in the memory are read back one by one. -/
theorem Memory.Holds.bytes4_eq {m : Memory} {lo : Nat} {w : Bytes4} (h : m.Holds lo w.toList) :
    (⟨m.readByte lo, m.readByte (lo + 1), m.readByte (lo + 2), m.readByte (lo + 3)⟩ : Bytes4) = w := by
  obtain ⟨b0, b1, b2, b3⟩ := w
  rw [Bytes4.mk.injEq]
  exact ⟨h 0 (by simp), h 1 (by simp), h 2 (by simp), h 3 (by simp)⟩

/-! ### One rule for the command that stores a whole range -/

theorem replacesRange_of_store {i : Instr} {s : State} {b : List Byte} (hexec : exec i s = .next (s.store s.base b).ok)
    (hmem : s.MemoryCanonical) (hlen : b.length = s.len) : ReplacesRange i s b := by
  refine ⟨s.pkt.writeBytes s.base b, hexec, fun k hk => ?_, fun a ha => ?_⟩
  · exact Memory.readByte_writeBytes_inside s.base b k hmem hk
  · exact Memory.readByte_writeBytes_outside s.base b a hmem (by omega)

/-! ### The commands on a context of the block -/

/-- The four bytes of a 32-bit operand are those of the field it stands in (R77). -/
theorem unpackBytes4_narrow (a : Field) : unpackBytes4 (narrow 32 a) =
    ⟨a.extractLsb' 0 8, a.extractLsb' 8 8, a.extractLsb' 16 8, a.extractLsb' 24 8⟩ := by
  simp only [unpackBytes4, narrow, Bytes4.mk.injEq]
  exact ⟨BitVec.extractLsb'_extractLsb'_of_le (by decide), BitVec.extractLsb'_extractLsb'_of_le (by decide),
    BitVec.extractLsb'_extractLsb'_of_le (by decide), BitVec.extractLsb'_extractLsb'_of_le (by decide)⟩

section
variable {s : State} {c : Nat} {x : Context}

/-- `CS_INIT` asks of its context only that the block holds it (R216). -/
theorem exec_csInit_of_lt (hc : c < s.ctx.length) : exec (.csInit c) s = .next (s.setContext c s.constructed).ok := by
  have hexec : exec (.csInit c) s = .next (s.withContext c fun _ => (s.setContext c s.constructed).ok) := rfl
  obtain ⟨hnone, -⟩ | ⟨_, -, e⟩ := s.withContext_cases c fun _ => (s.setContext c s.constructed).ok
  · exact absurd hc (Nat.not_lt.mpr (List.getElem?_eq_none_iff.mp hnone))
  · rw [hexec, e]

/-- The payload lies above the header, so storing the header leaves it to be read (R218). -/
theorem State.encryptedFrame_of_holds {b : List Byte} (hmem : s.MemoryCanonical) (hlen : b.length + 4 = s.len)
    (hbytes : s.pkt.Holds (s.base + 4) b) :
    s.encryptedFrame x = (hdrBuild x.key x.ver b.length).toList ++ encryptPayload s.cfg x.key b := by
  have hpayload : s.len - 4 = b.length := by omega
  have hread (h : Bytes4) : (s.pkt.writeBytes s.base h.toList).readBytes (s.base + 4) b.length = b := by
    rw [Memory.readBytes_congr (m' := s.pkt), hbytes.readBytes_eq]
    exact fun k _ => Memory.readByte_writeBytes_outside s.base h.toList _ hmem (.inr (by rw [Bytes4.length_toList]; omega))
  rw [State.encryptedFrame, hpayload, hread]

variable (hx : s.ctx[c]? = some x) (hvalid : x.valid = true)
include hx hvalid

/-- `CS_ENCRYPT` on a range in the Packet that has room for the header stores one frame (R218). -/
theorem exec_csEncrypt_of_valid (hin : s.base + s.len ≤ s.wp) (hlen : 4 ≤ s.len) :
    exec (.csEncrypt c) s = .next (s.store s.base (s.encryptedFrame x)).ok := by
  have hexec : exec (.csEncrypt c) s =
      .next (s.withRange (if s.len < 4 then s.raise .shortBuffer s.arg1 4 else (s.encryptRange x).ok)) :=
    congrArg Host.Outcome.next (State.withValidContext_of_valid hx hvalid _)
  rw [if_neg (Nat.not_lt.mpr hlen), s.encryptRange_eq_store] at hexec
  obtain ⟨hout, -⟩ | ⟨-, e⟩ := s.withRange_cases (s.store s.base (s.encryptedFrame x)).ok
  · omega
  · rw [hexec, e]

theorem exec_csDecrypt_of_valid : exec (.csDecrypt c) s = .next (s.transformRange (decryptPayload s.cfg x.key)) :=
  congrArg Host.Outcome.next (State.withValidContext_of_valid hx hvalid _)

theorem exec_csGetkey_of_valid : exec (.csGetkey c) s = .next (s.okWith 0 0 x.key.toList) :=
  congrArg Host.Outcome.next (State.withValidContext_of_valid hx hvalid _)

theorem exec_csGetver_of_valid :
    exec (.csGetver c) s = .next (s.okWith (field16 (decodeVersion x.ver)) (field16 x.ver) []) :=
  congrArg Host.Outcome.next (State.withValidContext_of_valid hx hvalid _)

end

/-- Settles O52: the context constructed is the seed's bytes four times beside the encoded version. -/
theorem csInitConstructsTheContext : Obligations.CsInitConstructsTheContext := by
  refine ⟨fun c hc => commandWord_context hc, fun s c seed hc hseed => ?_⟩
  have hconstructed : s.constructed = ⟨⟨seed, seed, seed, seed⟩, encodeVersion (s.arg1.extractLsb' 0 16), true⟩ := by
    rw [State.constructed, unpackBytes4_narrow, ← hseed, rep4, narrow]
  rw [exec_csInit_of_lt hc, hconstructed, State.ok_eq_answered]
  rfl

/-- Settles O53: the command stores one frame, which has as many bytes as its range. -/
theorem csEncryptWritesTheFrame : Obligations.CsEncryptWritesTheFrame := by
  refine ⟨fun c hc => commandWord_context hc, fun s c x b ⟨hmem, _⟩ hx hvalid hin hlen hbytes => ?_⟩
  have hroom : 4 ≤ s.len := by omega
  have hexec := exec_csEncrypt_of_valid hx hvalid hin hroom
  have hreplaces := replacesRange_of_store hexec hmem (s.length_encryptedFrame x hroom)
  rwa [State.encryptedFrame_of_holds hmem hlen hbytes] at hreplaces

/-- Settles O54: on a valid context the command is an in-place transform that keeps the length. -/
theorem csDecryptTransformsTheRange : Obligations.CsDecryptTransformsTheRange := by
  refine ⟨fun c hc => commandWord_context hc, fun s c x b ⟨hmem, _⟩ hx hvalid hin hlen hbytes => ?_⟩
  have hexec := exec_csDecrypt_of_valid hx hvalid
  exact replacesRange_of_transformRange hexec hmem hin hlen hbytes (length_decryptPayload s.cfg x.key b)

/-- Settles O57: the key's sixteen bytes in order, and the two forms of the version, each in its field. -/
theorem contextReadsReportTheContext : Obligations.ContextReadsReportTheContext := by
  refine ⟨fun c hc => commandWord_context hc, fun c hc => commandWord_context hc, fun s c k0 k1 k2 k3 ver hx => ⟨?_, ?_⟩⟩
  · rw [exec_csGetkey_of_valid hx rfl, State.okWith_eq_answered]
    rfl
  · rw [exec_csGetver_of_valid hx rfl, State.okWith_eq_answered, field16, field16]

end Sys2Proof.Machine
end

section
/-! PROOFS. Encrypting and decrypting again (spec/47_cipher_state.md R221): what each of the two steps puts in its range, and why nothing
but the header is left changed. -/

namespace Sys2Proof.Machine

section
variable {s : State} {cmd : Command} {rest : List Command} (hin : s.inbox = cmd :: rest)
include hin

theorem State.base_of_inbox : s.base = cmd.arg0.toNat := by rw [State.base, State.arg0, s.command_of_inbox cmd rest hin]

theorem State.len_of_inbox : s.len = cmd.arg1.toNat := by rw [State.len, State.arg1, s.command_of_inbox cmd rest hin]

/-- The step of a command that replaces its range, by the operands it was issued with. -/
theorem step_of_replacesRange {i : Instr} {b : List Byte} (h : ReplacesRange i s b) (hcw : cmd.cw = encode i)
    (hi : i.WellFormed) :
    ∃ m, step s = .next { s with pkt := m, inbox := rest, outbox := s.outbox ++ [okResponse s.fsr 0 0 []] } ∧
      m.Holds cmd.arg0.toNat b ∧ s.pkt.SameOutside m cmd.arg0.toNat cmd.arg1.toNat := by
  obtain ⟨m, hexec, hholds, hout⟩ := h
  rw [State.base_of_inbox hin] at hholds hout
  rw [State.len_of_inbox hin] at hout
  refine ⟨m, ?_, hholds, hout⟩
  rw [step_of_cw_eq_encode hin hcw hi, hexec, State.answered, hin, List.tail_cons]

end

/-- Where a change of `n + k` bytes leaves the last `k` of them as they were, it is a change of the first `n`. -/
theorem Memory.SameOutside.of_restored {m m1 m2 : Memory} {lo n k : Nat} {b : List Byte} (h1 : m.SameOutside m1 lo (n + k))
    (h2 : m1.SameOutside m2 (lo + n) k) (hlen : b.length = k) (hbefore : m.Holds (lo + n) b) (hafter : m2.Holds (lo + n) b) :
    m.SameOutside m2 lo n := by
  intro a ha
  by_cases hin : lo + n ≤ a ∧ a < lo + n + k
  · obtain ⟨j, rfl⟩ := Nat.exists_eq_add_of_le hin.1
    rw [hafter j (by omega), hbefore j (by omega)]
  · rw [h2 a (by omega), h1 a (by omega)]

/-- Under one key Decrypt's payload transform undoes Encrypt's: the layer undoes itself, then the obfuscation is undone. -/
theorem decryptPayload_encryptPayload (p : Config.Params) (key : Bytes16) (b : List Byte) :
    decryptPayload p key (encryptPayload p key b) = b := by
  rw [decryptPayload, encryptPayload, bcl_bcl, obfInv_obfFwd]

/-- Settles O55: the first step leaves header and transformed payload, and the second restores the payload above the header. -/
theorem encryptDecryptRoundTrip : Obligations.EncryptDecryptRoundTrip := by
  intro s c d x y c1 c2 rest hinv hc hd hx hxvalid hy hyvalid hkey hin hc1 hc2 hroom hrange hbase2 hlen2
  have hbase := State.base_of_inbox hin
  have hlen := State.len_of_inbox hin
  obtain ⟨b, hblen, hbefore⟩ : ∃ b : List Byte, b.length = c2.arg1.toNat ∧ s.pkt.Holds (c1.arg0.toNat + 4) b :=
    ⟨_, Memory.length_readBytes .., s.pkt.holds_readBytes _ _⟩
  have hencrypts := csEncryptWritesTheFrame.2 s c x b hinv hx hxvalid (by omega) (by omega) (by rwa [hbase])
  obtain ⟨m1, hstep1, hframe, hout1⟩ := step_of_replacesRange hin hencrypts hc1 (decide_eq_true hc)
  obtain ⟨hheader, hpayload⟩ := hframe.of_append
  have hdecrypts := csDecryptTransformsTheRange.2 _ d y (encryptPayload s.cfg x.key b)
    (stepKeepsTheInvariants _ _ hinv hstep1) hy hyvalid (show c2.arg0.toNat + c2.arg1.toNat ≤ s.wp by omega)
    ((length_encryptPayload ..).trans hblen) (show m1.Holds c2.arg0.toNat _ from hbase2 ▸ hpayload)
  obtain ⟨m, hstep2, hafter, hout2⟩ := step_of_replacesRange rfl hdecrypts hc2 (decide_eq_true hd)
  have hundone : obfInv s.cfg.obfATap (bcl s.cfg y.key (encryptPayload s.cfg x.key b)) = b := by
    rw [hkey]
    exact decryptPayload_encryptPayload s.cfg x.key b
  rw [hundone, hbase2] at hafter
  rw [hbase2] at hout2
  rw [← hlen2, Nat.add_comm c2.arg1.toNat] at hout1
  refine ⟨_, _, m, hstep1, hstep2, by rw [List.append_assoc, List.singleton_append],
    hout1.of_restored hout2 hblen hbefore hafter, ?_⟩
  rw [(hheader.of_sameOutside hout2 le_rfl).bytes4_eq, headerLengthIsRecovered, hblen, ← hlen2, Nat.add_sub_cancel]

end Sys2Proof.Machine
end

section
/-! PROOFS. The key rotation (spec/48_shuffle.md): `Shuffle` is its accumulator after four rounds (R235), and the repack of a round is
the accumulator's bytes side by side, rotated (R241). -/

namespace Sys2Proof.Machine

/-- `CS_SHUFFLE` on a valid context writes the key and answers with the seed (R242, R243). -/
theorem exec_csShuffle_of_valid {s : State} {c : Nat} {x : Context} (hx : s.ctx[c]? = some x) (hvalid : x.valid = true) :
    exec (.csShuffle c) s = .next ((s.setContext c { x with key := rep4 (shuffle s.cfg x.key) }).okWith
      (field32 (packBytes4 (shuffle s.cfg x.key))) 0 []) :=
  congrArg Host.Outcome.next (State.withValidContext_of_valid hx hvalid _)

/-- The accumulator after `n` rounds, one for each of the first key bytes (R235). -/
def shuffleAcc (p : Config.Params) (key : Bytes16) : Nat → Bytes4
  | 0 => p.shufInit
  | n + 1 => shuffleRound p (shuffleAcc p key n) (key.q0.byte n)

theorem shuffle_eq_shuffleAcc (p : Config.Params) (key : Bytes16) : shuffle p key = shuffleAcc p key 4 := rfl

theorem Bytes4.getD_toList (w : Bytes4) {i : Nat} (hi : i < 4) : w.toList.getD i 0 = w.byte i := by
  interval_cases i <;> rfl

theorem shuffleUpdate_of_fourUpdates {p : Config.Params} (h : p.shufRound = .fourUpdates) (a : Bytes4) (x : Byte) :
    shuffleUpdate p a x = fourUpdates p.shufTable a x := by rw [shuffleUpdate, h]

theorem shuffleUpdate_of_uninterpreted {p : Config.Params} (h : p.shufRound = .uninterpreted) (a : Bytes4) (x : Byte) :
    shuffleUpdate p a x = Config.openShuffleRound p.shufTable a x := by rw [shuffleUpdate, h]

/-- The repack of a round: the updated bytes side by side, the fourth highest, rotated left by 3 and taken apart again (R241). -/
theorem shuffleRound_eq_unpackBytes4 (p : Config.Params) (a : Bytes4) (x : Byte) :
    shuffleRound p a x = unpackBytes4 (((shuffleUpdate p a x).b3 ++ (shuffleUpdate p a x).b2 ++ (shuffleUpdate p a x).b1 ++
      (shuffleUpdate p a x).b0 : Word32).rotateLeft 3) := by
  rw [shuffleRound, packBytes4_eq_append]
  rfl

/-- Settles O56: the command's meaning on a valid context, and the rounds one by one. -/
theorem csShuffleAdvancesTheKey : Obligations.CsShuffleAdvancesTheKey := by
  refine ⟨fun c hc => commandWord_context hc, fun s c x a hx hvalid ha => ?_, fun p key => ?_⟩
  · rw [exec_csShuffle_of_valid hx hvalid, ← ha, hvalid, packBytes4_eq_append, State.okWith_eq_answered, field32]
    rfl
  · refine ⟨shuffleAcc p key, fun i => shuffleUpdate p (shuffleAcc p key i) (key.q0.byte i), rfl, shuffle_eq_shuffleAcc p key,
      fun i hi => ⟨key.q0.byte i, p.shufTable[(key.q0.byte i).toNat], _, (Bytes4.getD_toList key.q0 hi).symm, rfl,
        fun hfour => ?_, fun hopen => shuffleUpdate_of_uninterpreted hopen _ _, rfl, ?_⟩⟩
    · simp only [shuffleUpdate_of_fourUpdates hfour]
      exact ⟨rfl, rfl, rfl, rfl⟩
    · exact shuffleRound_eq_unpackBytes4 p _ _

end Sys2Proof.Machine
end

section
/-! PROOFS. How the faults of spec/60_exceptions.md are reported: the two checks of a context operand (R257, R258), the check of a range
(R259), the length check of `CS_ENCRYPT` (R260), the word that is no command (R256), and what an ending that is not `OK` leaves of the
state (R252, R254). -/

namespace Sys2Proof.Machine

/-! ### The context operand -/

section
variable {s : State} {c : Nat}

theorem State.withContext_of_absent (hc : c < 2 ^ 64) (hlen : s.ctx.length < 2 ^ 64) (habsent : s.ctx.length ≤ c)
    (k : Context → State) :
    s.withContext c k = s.faulted 1 (BitVec.ofNat 64 c) (BitVec.ofNat 64 s.ctx.length) := by
  obtain ⟨-, e⟩ | ⟨x, hx, -⟩ := s.withContext_cases c k
  · rw [e, State.raise_eq_faulted, fieldOfNat_of_lt hc, State.nctx, fieldOfNat_of_lt hlen]
    rfl
  · rw [List.getElem?_eq_none habsent] at hx
    cases hx

theorem State.withValidContext_of_uninit {x : Context} (hc : c < 2 ^ 64) (hx : s.ctx[c]? = some x) (hvalid : x.valid = false)
    (k : Context → State) : s.withValidContext c k = s.faulted 2 (BitVec.ofNat 64 c) 0 := by
  obtain ⟨hnone, -⟩ | ⟨_, -, -, e⟩ | ⟨y, hy, hyvalid, -⟩ := s.withValidContext_cases c k
  · simp [hx] at hnone
  · rw [e, State.raise_eq_faulted, fieldOfNat_of_lt hc]
    rfl
  · obtain rfl : x = y := Option.some.inj (hx.symm.trans hy)
    simp [hvalid] at hyvalid

end

/-- The commands that need their context valid (R258). -/
theorem exec_eq_withValidContext (s : State) (c : Nat) :
    ∀ i ∈ [Instr.bclApply c, .hdrBuild c, .csEncrypt c, .csDecrypt c, .csShuffle c, .csGetkey c, .csGetver c],
      ∃ k, exec i s = .next (s.withValidContext c k) := by
  simp only [List.forall_mem_cons]
  exact ⟨⟨_, rfl⟩, ⟨_, rfl⟩, ⟨_, rfl⟩, ⟨_, rfl⟩, ⟨_, rfl⟩, ⟨_, rfl⟩, ⟨_, rfl⟩, List.forall_mem_nil _⟩

/-- The context-using commands (R83). -/
theorem exec_eq_withContext (s : State) (c : Nat) :
    ∀ i ∈ [Instr.bclApply c, .hdrBuild c, .csInit c, .csEncrypt c, .csDecrypt c, .csShuffle c, .csGetkey c, .csGetver c],
      ∃ k, exec i s = .next (s.withContext c k) := by
  simp only [List.forall_mem_cons]
  exact ⟨⟨_, rfl⟩, ⟨_, rfl⟩, ⟨_, rfl⟩, ⟨_, rfl⟩, ⟨_, rfl⟩, ⟨_, rfl⟩, ⟨_, rfl⟩, ⟨_, rfl⟩, List.forall_mem_nil _⟩

/-- Settles O58: each of the commands looks its context up before anything else. -/
theorem absentContextIsReported : Obligations.AbsentContextIsReported := by
  intro s c ⟨_, hcount⟩ hc habsent i hi
  obtain ⟨k, hexec⟩ := exec_eq_withContext s c i hi
  rw [hexec, State.withContext_of_absent (by omega) (by omega) habsent]

/-- Settles O59: each of the commands asks whether its context is valid before anything else. -/
theorem unconstructedContextIsReported : Obligations.UnconstructedContextIsReported := by
  intro s c x hc hx hvalid i hi
  obtain ⟨k, hexec⟩ := exec_eq_withValidContext s c i hi
  rw [hexec, State.withValidContext_of_uninit (by omega) hx hvalid]

/-! ### The range operand -/

section
variable {s : State} {c : Nat} {x : Context} (hx : s.ctx[c]? = some x) (hvalid : x.valid = true)
include hx hvalid

/-- The commands that transform a range under a context check the range next (R264). -/
theorem exec_eq_withRange_of_valid :
    ∀ i ∈ [Instr.bclApply c, .csEncrypt c, .csDecrypt c], ∃ k, exec i s = .next (s.withRange k) := by
  have hexec (k : Context → State) := congrArg (Host.Outcome.next (φ := Fault) (ρ := Refusal))
    (State.withValidContext_of_valid hx hvalid k)
  simp only [List.forall_mem_cons]
  exact ⟨⟨_, hexec _⟩, ⟨_, hexec _⟩, ⟨_, hexec _⟩, List.forall_mem_nil _⟩

/-- A range in the Packet without room for the header (R260). -/
theorem exec_csEncrypt_of_short (hin : s.base + s.len ≤ s.wp) (hshort : s.len < 4) :
    exec (.csEncrypt c) s = .next (s.faulted 4 s.arg1 4) := by
  have hexec : exec (.csEncrypt c) s =
      .next (s.withRange (if s.len < 4 then s.raise .shortBuffer s.arg1 4 else (s.encryptRange x).ok)) :=
    congrArg Host.Outcome.next (State.withValidContext_of_valid hx hvalid _)
  rw [if_pos hshort] at hexec
  obtain ⟨hout, -⟩ | ⟨-, e⟩ := s.withRange_cases (s.raise .shortBuffer s.arg1 4)
  · omega
  · rw [hexec, e, State.raise_eq_faulted]
    rfl

end

theorem State.withRange_of_out {s : State} (hout : s.wp < s.base + s.len) (k : State) :
    s.withRange k = s.faulted 3 s.arg0 s.arg1 := by
  obtain ⟨-, e⟩ | ⟨hin, -⟩ := s.withRange_cases k
  · rw [e, State.raise_eq_faulted]
    rfl
  · omega

/-! ### The commands that never end with `SHORT_BUFFER` -/

/-- A command gives one response, so two that it gave are the same. -/
theorem response_unique {s t : State} {r r' : Response} (h : t.outbox = s.outbox ++ [r]) (h' : t.outbox = s.outbox ++ [r']) :
    r = r' := by
  simpa [h] using h'

/-- The response that `t` holds beyond those of `s` has another status than `SHORT_BUFFER` (R260). -/
def AnswersNotShort (s t : State) : Prop := ∀ r : Response, t.outbox = s.outbox ++ [r] → r.status ≠ 0x84

namespace AnswersNotShort

variable {s : State}

theorem of_response {t : State} {r : Response} (hout : t.outbox = s.outbox ++ [r]) (hstatus : r.status ≠ 0x84) :
    AnswersNotShort s t := by
  intro r' hout'
  rwa [← response_unique hout hout']

theorem okWith {u : State} (hu : u.outbox = s.outbox) {res0 res1 : Field} {dout : List Byte} :
    AnswersNotShort s (u.okWith res0 res1 dout) :=
  of_response (by rw [State.okWith_outbox, hu]) (show statusOk ≠ 0x84 by decide)

theorem endOfData {u : State} (hu : u.outbox = s.outbox) {req avail : Nat} : AnswersNotShort s (u.endOfData req avail) :=
  of_response (by rw [State.endOfData_outbox, hu]) (show statusEndOfData ≠ 0x84 by decide)

theorem raise {k : Cause} (hk : k.status ≠ 0x84) {i0 i1 : Field} : AnswersNotShort s (s.raise k i0 i1) :=
  of_response (s.raise_outbox k i0 i1) hk

theorem append (b : List Byte) : AnswersNotShort s (s.append b) := by
  obtain ⟨-, e⟩ | ⟨-, e⟩ := s.append_cases b
  · rw [e]
    exact raise (by decide)
  · rw [e]
    exact okWith rfl

theorem withRange {k : State} (hk : AnswersNotShort s k) : AnswersNotShort s (s.withRange k) := by
  obtain ⟨-, e⟩ | ⟨-, e⟩ := s.withRange_cases k
  · rw [e]
    exact raise (by decide)
  · rwa [e]

theorem transformRange (f : List Byte → List Byte) : AnswersNotShort s (s.transformRange f) := withRange (okWith rfl)

theorem withContext {c : Nat} {k : Context → State} (hk : ∀ x, AnswersNotShort s (k x)) :
    AnswersNotShort s (s.withContext c k) := by
  obtain ⟨-, e⟩ | ⟨x, -, e⟩ := s.withContext_cases c k
  · rw [e]
    exact raise (by decide)
  · rw [e]
    exact hk x

theorem withValidContext {c : Nat} {k : Context → State} (hk : ∀ x, AnswersNotShort s (k x)) :
    AnswersNotShort s (s.withValidContext c k) := by
  refine withContext fun x => ?_
  split
  · exact hk x
  · exact raise (by decide)

theorem readFixed {n : Nat} {k : Nat → State → State} (hk : ∀ v, AnswersNotShort s (k v (s.setRp (s.rp + n)))) :
    AnswersNotShort s (s.readFixed n k) := by
  obtain ⟨-, e⟩ | ⟨-, e⟩ := s.readFixed_cases n k
  · rw [e]
    exact endOfData rfl
  · rw [e]
    exact hk _

theorem decodeInteger (n : Nat) (sgn : Bool) : AnswersNotShort s (s.decodeInteger n sgn) := readFixed fun _ => okWith rfl

theorem readPrefixed {k : Nat → Nat → State → State}
    (hk : ∀ len, AnswersNotShort s (k (s.rp + 2) len (s.setRp (s.rp + 2 + len)))) : AnswersNotShort s (s.readPrefixed k) := by
  refine readFixed fun len => ?_
  split
  · exact endOfData rfl
  · exact hk len

end AnswersNotShort

/-- No command but `CS_ENCRYPT` on a range below 4 bytes ends with `SHORT_BUFFER`: each by the rule of the operation it is written
with. -/
theorem exec_answersNotShort (i : Instr) (s : State) (hlong : ∀ c, i = .csEncrypt c → 4 ≤ s.len) :
    ∃ t, exec i s = .next t ∧ AnswersNotShort s t := by
  cases i with
  | pbNew => exact ⟨_, rfl, .okWith rfl⟩
  | pbRaw => exact ⟨_, rfl, .append s.din⟩
  | pbEnc1 sgn => exact ⟨_, rfl, .append (s.integerOperand 1)⟩
  | pbEnc2 sgn => exact ⟨_, rfl, .append (s.integerOperand 2)⟩
  | pbEnc4 sgn => exact ⟨_, rfl, .append (s.integerOperand 4)⟩
  | pbEnc8 sgn => exact ⟨_, rfl, .append (s.integerOperand 8)⟩
  | pbLpbuf => exact ⟨_, rfl, .append (lengthPrefixed s.din)⟩
  | pbLpstr => exact ⟨_, rfl, .append (lengthPrefixed s.din)⟩
  | pbDump => exact ⟨_, rfl, .withRange (.okWith rfl)⟩
  | pbLen => exact ⟨_, rfl, .okWith rfl⟩
  | pcOpen =>
    refine ⟨_, rfl, ?_⟩
    split
    · exact .raise (by decide)
    · exact .okWith rfl
  | pcDec1 sgn => exact ⟨_, rfl, .decodeInteger 1 sgn⟩
  | pcDec2 sgn => exact ⟨_, rfl, .decodeInteger 2 sgn⟩
  | pcDec4 sgn => exact ⟨_, rfl, .decodeInteger 4 sgn⟩
  | pcDec8 sgn => exact ⟨_, rfl, .decodeInteger 8 sgn⟩
  | pcLpbuf => exact ⟨_, rfl, .readPrefixed fun _ => .okWith rfl⟩
  | pcLpstr => exact ⟨_, rfl, .readPrefixed fun _ => .okWith rfl⟩
  | pcRemain => exact ⟨_, rfl, .okWith rfl⟩
  | crc32 => exact ⟨_, rfl, .okWith rfl⟩
  | obfFwd => exact ⟨_, rfl, .transformRange _⟩
  | obfInv => exact ⟨_, rfl, .transformRange _⟩
  | bclApply c => exact ⟨_, rfl, .withValidContext fun _ => .transformRange _⟩
  | hdrGetlen => exact ⟨_, rfl, .okWith rfl⟩
  | hdrBuild c => exact ⟨_, rfl, .withValidContext fun _ => .okWith rfl⟩
  | csInit c => exact ⟨_, rfl, .withContext fun _ => .okWith rfl⟩
  | csEncrypt c =>
    refine ⟨_, rfl, .withValidContext fun x => .withRange ?_⟩
    rw [if_neg (Nat.not_lt.mpr (hlong c rfl)), s.encryptRange_eq_store]
    exact .okWith (s.store_outbox s.base (s.encryptedFrame x))
  | csDecrypt c => exact ⟨_, rfl, .withValidContext fun _ => .transformRange _⟩
  | csShuffle c => exact ⟨_, rfl, .withValidContext fun _ => .okWith rfl⟩
  | csGetkey c => exact ⟨_, rfl, .withValidContext fun _ => .okWith rfl⟩
  | csGetver c => exact ⟨_, rfl, .withValidContext fun _ => .okWith rfl⟩

/-- Settles O60: the range is checked after the context and before the length, and only `CS_ENCRYPT` checks a length. -/
theorem badRangesAreReportedInOrder : Obligations.BadRangesAreReportedInOrder := by
  refine ⟨fun s c x hx hvalid => ⟨fun hout i hi => ?_, fun hin hshort => exec_csEncrypt_of_short hx hvalid hin hshort⟩,
    fun i s t r hexec hout hstatus => ?_⟩
  · obtain ⟨k, hexec⟩ := exec_eq_withRange_of_valid hx hvalid i hi
    rw [hexec, State.withRange_of_out hout]
  · by_contra hother
    obtain ⟨u, hu, hnot⟩ := exec_answersNotShort i s fun c hc => Nat.not_lt.mp fun hshort => hother ⟨hshort, c, hc⟩
    obtain rfl : u = t := by simpa [hu] using hexec
    exact hnot r hout hstatus

/-! ### The word that is no command, and no command -/

/-- Settles O6: a word that selects no row does not decode, and the step then looks at nothing but the word. -/
theorem illegalWordIsReported : Obligations.IllegalWordIsReported := by
  intro s cmd rest hin hnone
  simp only [step, hin]
  cases hdec : decode cmd.cw with
  | ok i =>
    obtain ⟨row, hrow, hselects⟩ := selects_of_decode hdec
    simp [hnone row hrow] at hselects
  | error why =>
    simp only [raiseIllegal, s.command_of_inbox cmd rest hin, State.raise_eq_faulted]
    rfl

/-- Settles O7: of the step's branches, an empty list of issued commands takes the one that keeps the state. -/
theorem idleStepChangesNothing : Obligations.IdleStepChangesNothing := by
  intro s hin
  simp only [step, hin]

/-! ### What an ending that is not `OK` leaves -/

theorem ends_of_step {s t : State} {cmd : Command} {rest : List Command} (hin : s.inbox = cmd :: rest)
    (hstep : step s = .next t) : Ends s t := by
  obtain ⟨u, hu, hends⟩ := step_ends hin
  obtain rfl : u = t := by simpa [hu] using hstep
  exact hends

theorem Cause.status_ne_endOfData (k : Cause) : k.status ≠ 0x01 := by
  cases k <;> decide

/-- Settles O10: of the endings only a fault has a status of `0x80` or more, and a fault is what R254 says. -/
theorem faultChangesOnlyItsStickyBit : Obligations.FaultChangesOnlyItsStickyBit := by
  intro s t cmd rest r hin hstep hout hmsb
  cases ends_of_step hin hstep with
  | ok e res0 res1 dout =>
    obtain rfl := response_unique (s := s) hout (by rw [State.okWith_outbox, Change.apply_outbox])
    exact absurd hmsb (show ¬ statusOk.msb = true by decide)
  | endOfData req avail =>
    obtain rfl := response_unique hout (s.endOfData_outbox req avail)
    exact absurd hmsb (show ¬ statusEndOfData.msb = true by decide)
  | endOfItem req avail =>
    obtain rfl := response_unique hout ((s.setRp _).endOfData_outbox req avail)
    exact absurd hmsb (show ¬ statusEndOfData.msb = true by decide)
  | fault k i0 i1 hk =>
    obtain rfl := response_unique hout (s.raise_outbox k i0 i1)
    exact ⟨k.bit, Cause.bit_lt hk, s.raise_eq_faulted k i0 i1⟩

/-- An integer read that fails leaves the cursor where it is (R122). -/
theorem State.decodeInteger_ne_endOfItem (s : State) (n : Nat) (sgn : Bool) (req avail : Nat) :
    s.decodeInteger n sgn ≠ (s.setRp (s.rp + 2)).endOfData req avail := by
  intro h
  obtain ⟨-, e⟩ | ⟨-, e⟩ := s.readFixed_cases n fun v s1 => s1.okWith (widen (8 * n) sgn v) 0 []
  · have hrp : s.rp = s.rp + 2 := congrArg State.rp (e.symm.trans h)
    omega
  · have hout := congrArg State.outbox (e.symm.trans h)
    simp [statusOk, statusEndOfData] at hout

/-- Opening the cursor ends with `OK` or with a fault (R121). -/
theorem exec_pcOpen_ne_endOfItem (s : State) (req avail : Nat) :
    exec .pcOpen s ≠ .next ((s.setRp (s.rp + 2)).endOfData req avail) := by
  intro h
  have hout := congrArg State.outbox (Host.Outcome.next.inj h)
  split at hout
  · simp [Cause.status, statusEndOfData, Cause.bit] at hout
  · simp [statusOk, statusEndOfData] at hout

/-- Of the commands that can move the cursor by 2, only the length-prefixed reads end with `END_OF_DATA` when they do (R130 b). -/
theorem eq_pcLpbuf_or_pcLpstr_of_endOfItem {i : Instr} {s : State} {req avail : Nat}
    (h : exec i s = .next ((s.setRp (s.rp + 2)).endOfData req avail)) : i = .pcLpbuf ∨ i = .pcLpstr := by
  obtain ⟨e, r, hmade, -, ht⟩ := exec_cases h
  have hrp : s.rp + 2 = (e.apply s).rp := congrArg State.rp ht
  cases e with
  | openCursor start =>
    obtain rfl : i = .pcOpen := hmade
    exact absurd h (exec_pcOpen_ne_endOfItem s req avail)
  | advance n =>
    obtain ⟨g, rfl⟩ | ⟨g, rfl⟩ | ⟨g, rfl⟩ | ⟨g, rfl⟩ | hread := hmade
    · exact absurd (Host.Outcome.next.inj h) (s.decodeInteger_ne_endOfItem 1 g req avail)
    · exact absurd (Host.Outcome.next.inj h) (s.decodeInteger_ne_endOfItem 2 g req avail)
    · exact absurd (Host.Outcome.next.inj h) (s.decodeInteger_ne_endOfItem 4 g req avail)
    · exact absurd (Host.Outcome.next.inj h) (s.decodeInteger_ne_endOfItem 8 g req avail)
    · exact hread
  | _ => simp [Change.apply] at hrp

/-- A step that ends with `END_OF_DATA` past a length field executed a length-prefixed read: no other word decodes to one. -/
theorem decode_of_endOfItem {s : State} {cmd : Command} {rest : List Command} {req avail : Nat} (hin : s.inbox = cmd :: rest)
    (hstep : step s = .next ((s.setRp (s.rp + 2)).endOfData req avail)) :
    decode cmd.cw = .ok .pcLpbuf ∨ decode cmd.cw = .ok .pcLpstr := by
  simp only [step, hin] at hstep
  cases hdec : decode cmd.cw with
  | ok i =>
    rw [hdec] at hstep
    exact (eq_pcLpbuf_or_pcLpstr_of_endOfItem hstep).imp (congrArg Except.ok) (congrArg Except.ok)
  | error why =>
    rw [hdec] at hstep
    have hrp : s.rp = s.rp + 2 := congrArg State.rp (Host.Outcome.next.inj hstep)
    omega

/-- Settles O11: of the endings only two have the status 1, and one of them is a length-prefixed read's alone. -/
theorem endOfDataKeepsState : Obligations.EndOfDataKeepsState := by
  intro s t cmd rest r hin hstep hout hstatus
  cases ends_of_step hin hstep with
  | ok e res0 res1 dout =>
    obtain rfl := response_unique (s := s) hout (by rw [State.okWith_outbox, Change.apply_outbox])
    exact absurd hstatus (show statusOk ≠ 0x01 by decide)
  | endOfData req avail =>
    obtain rfl := response_unique hout (s.endOfData_outbox req avail)
    exact .inl rfl
  | endOfItem req avail =>
    obtain rfl := response_unique hout ((s.setRp _).endOfData_outbox req avail)
    exact .inr ⟨decode_of_endOfItem hin hstep, rfl⟩
  | fault k i0 i1 hk =>
    obtain rfl := response_unique hout (s.raise_outbox k i0 i1)
    exact absurd hstatus k.status_ne_endOfData

end Sys2Proof.Machine
end
